-- ==== Sys2Proof/Word.lean ====
section
/-! DEFINITION. The word types of the KFCC: bytes, bit sequences, window offsets and encoded words. -/

namespace Sys2Proof

/-- A byte `0..255` (R13). Bit `REG[k]` of a byte register is `getLsbD k`. -/
abbrev Byte := BitVec 8

/-- `Bits(n)` of R10, packed as R128 allows: element `v[i]` (index 0 first) is `getMsbD i`, so the
first element is the most significant bit and `nat(v)` (R11) is `toNat`; `a ‖ b` is `a ++ b`. -/
abbrev Bits (n : Nat) := BitVec n

/-- An offset `0x00..0x3F` of the 64-byte register window (R60): no other offset is a transaction to
this KFCC (R62), and none can be written down here. -/
abbrev Offset := BitVec 6

/-- An encoded word of one of the two formats: a byte written to `CMD` (R90, format CMD) or a value of
the internal register `STAGE` (R95, format STAGE). -/
inductive CodeWord where
  | cmd (b : Byte)
  | stage (code : Bits 3)
deriving DecidableEq, Repr

end Sys2Proof
end

