-- ==== Sys2Proof/Config.lean ====
section
/-! DEFINITION. The parameters of the model (R9). `TBL` is the only one a rule depends on. -/

namespace Sys2Proof

/-- The record `TBL` of constant tables (R9, R140 to R148). Permutation tables hold 1-based positions
verbatim (R140); the length of each table is part of its type (R15). The values this hardware uses are
`Sys2Proof.Machine.tbl`; which records are admissible is `Tables.wf`. The tables are not state but an
argument of the step relation (R37), `Sys2Proof.Machine.stepFor`; `step` is that relation at `tbl`.

The other parameters of R9 (`BASE`, `BUS`, `CYC`, `RESET_KIND`) are read by no rule and have no
counterpart in the model (assumption log entry 3). -/
structure Tables where
  ip    : Vector Nat 64
  fp    : Vector Nat 64
  e     : Vector Nat 48
  p     : Vector Nat 32
  pc1   : Vector Nat 56
  pc2   : Vector Nat 48
  /-- `sbox[j][row][col]` (R146). -/
  sbox  : Vector (Vector (Vector Nat 16) 4) 8
  shift : Vector Nat 16
deriving DecidableEq, Repr

end Sys2Proof
end

