-- ==== Sys2Proof/Syntax.lean ====
section
/-! DEFINITION. The instructions of the KFCC: one constructor per row of spec/opcode_table.json. -/

namespace Sys2Proof

/-- The five host commands (R92) and the six stages of the sequencer (R95). Every operand is implicit
(R91), so no constructor has a field. -/
inductive Instr where
  /-- Command byte `0x00` (R240). -/
  | nop
  /-- Command byte `0x01` (R170). -/
  | keygen
  /-- Command byte `0x02` (R200). -/
  | enc
  /-- Command byte `0x03` (R201). -/
  | dec
  /-- Command byte `0x04` (R241). -/
  | clr
  /-- Stage code `000` (R29). -/
  | idle
  /-- Stage code `001` (R172). -/
  | ksPc1
  /-- Stage code `010` (R173). -/
  | ksRnd
  /-- Stage code `011` (R203). -/
  | blkIp
  /-- Stage code `100` (R204). -/
  | blkRnd
  /-- Stage code `101` (R205). -/
  | blkFp
deriving DecidableEq, Repr

end Sys2Proof
end

