-- ==== Sys2Proof/WellFormed.lean ====
section
/-! DEFINITION. Well-formedness: of encoded words (R90, R93, R95) and of the table record (R149).
An `Instr` has no operands (R91), so every `Instr` is well formed. -/

namespace Sys2Proof

/-- A command byte is legal when its field `zero` is `00000` (R90) and its field `op` is not `101`,
`110` or `111` (R93); a stage code is legal when it is not `110` or `111` (R95). -/
def CodeWord.wf : CodeWord → Bool
  | .cmd b => b.extractLsb' 3 5 == 0#5 && (b.extractLsb' 0 3).toNat ≤ 4
  | .stage c => c.toNat ≤ 5

namespace Tables

/-- The entry `t⟨p⟩` at 1-based position `p` (R10); 0 outside the table. -/
def entry {m : Nat} (t : Vector Nat m) (pos : Nat) : Nat := t.toList.getD (pos - 1) 0

/-- Every entry lies in `1..n` (R149 (a)). -/
def inRange (n : Nat) {m : Nat} (t : Vector Nat m) : Bool :=
  t.toList.all fun x => decide (1 ≤ x) && decide (x ≤ n)

/-- R149 (a): the entry range of each permutation table (the lengths are in the types). -/
def rangesWf (t : Tables) : Bool :=
  inRange 64 t.ip && inRange 64 t.fp && inRange 32 t.e && inRange 32 t.p && inRange 64 t.pc1
    && inRange 56 t.pc2

/-- R149 (b), R142: `FP⟨IP⟨p⟩⟩ = p` and `IP⟨FP⟨p⟩⟩ = p` for every `p` in `1..64`. -/
def inverseWf (t : Tables) : Bool :=
  (List.range 64).all fun k =>
    entry t.fp (entry t.ip (k + 1)) == k + 1 && entry t.ip (entry t.fp (k + 1)) == k + 1

/-- R149 (c): every S-box entry is in `0..15` (4 rows of 16 entries are in the type). -/
def sboxWf (t : Tables) : Bool :=
  t.sbox.toList.all fun box => box.toList.all fun row => row.toList.all fun x => decide (x ≤ 15)

/-- R149 (d): `SHIFT` is the literal of R148. -/
def shiftWf (t : Tables) : Bool :=
  t.shift.toList == [1, 1, 2, 2, 2, 2, 2, 2, 1, 2, 2, 2, 2, 2, 2, 1]

/-- `WF(TBL)` of R149. -/
def wf (t : Tables) : Bool := t.rangesWf && t.inverseWf && t.sboxWf && t.shiftWf

end Tables

end Sys2Proof
end

