-- ==== Sys2Proof/Decode.lean ====
section
/-! DEFINITION. The decoder and the encoder of the two formats of 30_encoding.md. -/

namespace Sys2Proof

/-- Why a word has no instruction. -/
inductive Reject where
  /-- A reserved command byte `0x05..0xFF` (R93): writing it to an idle KFCC raises `E_ILLCMD`. -/
  | reservedCommand
  /-- A stage code `110` or `111`, which no rule ever assigns (R95). -/
  | unreachableStage
deriving DecidableEq, Repr

/-- One row of an opcode map: a word `w` is the row's instruction when `w and mask = pattern`. -/
structure Row (n : Nat) where
  mask    : BitVec n
  pattern : BitVec n
  instr   : Instr
deriving DecidableEq, Repr

/-- Does the word match the row? -/
def rowMatches {n : Nat} (w : BitVec n) (r : Row n) : Bool := w &&& r.mask == r.pattern

/-- The command set, R92: the mask is `0xFF` in every row. -/
def cmdRows : List (Row 8) :=
  [⟨0xFF#8, 0x00#8, .nop⟩, ⟨0xFF#8, 0x01#8, .keygen⟩, ⟨0xFF#8, 0x02#8, .enc⟩,
   ⟨0xFF#8, 0x03#8, .dec⟩, ⟨0xFF#8, 0x04#8, .clr⟩]

/-- The stage codes, R95. -/
def stageRows : List (Row 3) :=
  [⟨0b111#3, 0b000#3, .idle⟩, ⟨0b111#3, 0b001#3, .ksPc1⟩, ⟨0b111#3, 0b010#3, .ksRnd⟩,
   ⟨0b111#3, 0b011#3, .blkIp⟩, ⟨0b111#3, 0b100#3, .blkRnd⟩, ⟨0b111#3, 0b101#3, .blkFp⟩]

/-- The instruction of the first row that the word matches. -/
def lookupRow {n : Nat} (rows : List (Row n)) (w : BitVec n) : Option Instr :=
  (rows.find? (rowMatches w)).map Row.instr

/-- Decoding of a byte written to `CMD` (R92, R93); total, and independent of any mode (R94). -/
def decodeCmd (b : Byte) : Except Reject Instr :=
  match lookupRow cmdRows b with
  | some i => .ok i
  | none => .error .reservedCommand

/-- Decoding of a stage code (R95). -/
def decodeStage (c : Bits 3) : Except Reject Instr :=
  match lookupRow stageRows c with
  | some i => .ok i
  | none => .error .unreachableStage

/-- Decoding of a word of either format. -/
def decode : CodeWord → Except Reject Instr
  | .cmd b => decodeCmd b
  | .stage c => decodeStage c

/-- The word of an instruction: the byte column of R92, the code column of R95. -/
def encode : Instr → CodeWord
  | .nop => .cmd 0x00#8
  | .keygen => .cmd 0x01#8
  | .enc => .cmd 0x02#8
  | .dec => .cmd 0x03#8
  | .clr => .cmd 0x04#8
  | .idle => .stage 0b000#3
  | .ksPc1 => .stage 0b001#3
  | .ksRnd => .stage 0b010#3
  | .blkIp => .stage 0b011#3
  | .blkRnd => .stage 0b100#3
  | .blkFp => .stage 0b101#3

/-- The command byte of a command; 0 (`NOP`) for a stage, which has none. -/
def cmdByte (i : Instr) : Byte :=
  match encode i with
  | .cmd b => b
  | .stage _ => 0x00#8

/-- The word with the table's bits `w` that is `nbits` bits long: fewer than 8 bits is the 3-bit format
STAGE, 8 bits (or more) the format CMD; `none` where `w` does not fit the format. A one-byte word is
always a command, since the two formats share the values 0 to 5 (assumption log entry 7). -/
def tableWord (nbits w : Nat) : Option CodeWord :=
  if nbits < 8 then
    if w < 8 then some (.stage (BitVec.ofNat 3 w)) else none
  else
    if w < 256 then some (.cmd (BitVec.ofNat 8 w)) else none

/-- What the decoder reads from a word given as spec/opcode_table.json numbers it. -/
def decodeTableWord (nbits w : Nat) : Option Instr :=
  match tableWord nbits w with
  | some word => (decode word).toOption
  | none => none

end Sys2Proof
end

