-- ==== Sys2Proof/Machine/Bits.lean ====
section
/-! DEFINITION. The bit-sequence primitives of 40_bit_primitives.md: pure functions that read and write
no state (R96). Index 0 is the first element, `getMsbD 0`. -/

namespace Sys2Proof.Machine

/-- `v[start .. start+len-1]` (R11). -/
def slice {n : Nat} (v : Bits n) (start len : Nat) : Bits len :=
  BitVec.ofFnBE fun i => v.getMsbD (start + i.val)

/-- `bytesToBits` (R120): `result[8k + j] = bytes[k][7 - j]`. -/
def bytesToBits {m : Nat} (bytes : Vector Byte m) : Bits (8 * m) :=
  BitVec.ofFnBE fun i => (bytes[i.val / 8]'(by omega)).getLsbD (7 - i.val % 8)

/-- `bitsToBytes` (R121): `result[k] = nat(bits[8k .. 8k+7])`. The length condition is in the type, so
`LengthError` does not exist (R15). -/
def bitsToBytes {m : Nat} (bits : Bits (8 * m)) : Vector Byte m :=
  Vector.ofFn fun k => slice bits (8 * k.val) 8

/-- `permute` (R123): `result[i] = bits[table[i] - 1]`. -/
def permute {n m : Nat} (bits : Bits n) (table : Vector Nat m) : Bits m :=
  BitVec.ofFnBE fun i => bits.getMsbD (table[i] - 1)

/-- `xorBits` (R124). -/
def xorBits {n : Nat} (a b : Bits n) : Bits n := a ^^^ b

/-- `rotateLeft` (R125): `result[i] = bits[(i + n) mod m]`. -/
def rotateLeft {m : Nat} (bits : Bits m) (n : Nat) : Bits m :=
  BitVec.ofFnBE fun i => bits.getMsbD ((i.val + n) % m)

end Sys2Proof.Machine
end

