-- ==== Sys2Proof/Machine/State.lean ====
section
/-! DEFINITION. The state of the machine: the registers of one KFCC (10_state.md), and, as plain data,
the two things that stand outside it and decide what happens next: the host's remaining transactions
and the order in which the agents take their turns. -/

namespace Sys2Proof.Machine

/-- The six values of the register `STAGE` (R28, R95). -/
inductive Stage where
  | idle
  | ksPc1
  | ksRnd
  | blkIp
  | blkRnd
  | blkFp
deriving DecidableEq, Repr

/-- The agents (R18): the host, the sequencer, and the platform, which asserts reset (R321). -/
inductive Agent where
  | host
  | sequencer
  | platform
deriving DecidableEq, Repr

/-- What the host does in one of its steps. `rd` and `wr` are the two transactions of R62; `wait` is the
pseudo-instruction `WAIT` (R99), one poll of `STATUS` a step until `BUSY` reads 0. -/
inductive HostOp where
  | rd (off : Offset)
  | wr (off : Offset) (val : Byte)
  | wait
deriving DecidableEq, Repr

/-- The state. The fields up to `ien` are the KFCC's own, all of it (R38: there is no other); `BUSY`,
`ERRS`, `STATUS`, `CMD` and `irq` are not state (R29 to R31, R35, R37). The last three fields belong to
the agents around it (assumption log entries 1 and 2). -/
structure State where
  /-- `KEY[0..7]` (R20). -/
  key     : Vector Byte 8
  /-- `DIN[0..7]` (R21). -/
  din     : Vector Byte 8
  /-- `DOUT[0..7]` (R22). -/
  dout    : Vector Byte 8
  /-- `RK[0..15]` (R24). -/
  rk      : Vector (Bits 48) 16
  /-- `C` (R25). -/
  c       : Bits 28
  /-- `D` (R25). -/
  d       : Bits 28
  /-- `L` (R26). -/
  l       : Bits 32
  /-- `R` (R26). -/
  r       : Bits 32
  /-- `DIR` (R27): false is 0 (`ENC` order), true is 1 (`DEC` order). -/
  dir     : Bool
  /-- `RND` (R28). -/
  rnd     : Fin 16
  /-- `STAGE` (R28). -/
  stage   : Stage
  /-- `KV` (R32). -/
  kv      : Bool
  /-- `OV` (R32). -/
  ov      : Bool
  /-- `EVT` (R33). -/
  evt     : Byte
  /-- `IEN` (R34). -/
  ien     : Byte
  /-- The host's transactions still to be issued, in issue order (R62). -/
  prog    : List HostOp
  /-- Whose turn it is in the next steps (R71: any order is a run); when it is empty, see `nextAgent`. -/
  sched   : List Agent
  /-- The bytes that reads have returned to the host, oldest first, each with its offset (R100). -/
  readLog : List (Offset × Byte)
deriving DecidableEq, Repr

/-- Faults of the machine: none. "Fault: none defined by the hardware" (R300); a refused host write is a
next state with one more `EVT` bit (R287). Safe: nothing raises a fault. -/
inductive Fault where
deriving DecidableEq, Repr

/-- Refusals of the model. -/
inductive Refusal where
  /-- Raised by an arm of `exec` whose instruction has no meaning yet; no arm raises it. Safe: the model
  would stop where the hardware goes on. -/
  | notModelled (mnemonic : String)
deriving DecidableEq, Repr

/-- The state after the reset event, every value from the table of R39; the host has nothing to issue
and no turn is planned (assumption log entry 2). -/
def State.reset : State where
  key     := Vector.replicate 8 0#8
  din     := Vector.replicate 8 0#8
  dout    := Vector.replicate 8 0#8
  rk      := Vector.replicate 16 0#48
  c       := 0#28
  d       := 0#28
  l       := 0#32
  r       := 0#32
  dir     := false
  rnd     := 0
  stage   := .idle
  kv      := false
  ov      := false
  evt     := 0x00#8
  ien     := 0x00#8
  prog    := []
  sched   := []
  readLog := []

end Sys2Proof.Machine
end

