-- ==== Sys2Proof/Machine/Flags.lean ====
section
/-! DEFINITION. Flags and events: the bits of `EVT` and `IEN`, the derived flags `BUSY` and `ERRS`, the
byte `STATUS` and the output `irq` (10_state.md section 4, 60_exceptions.md). -/

namespace Sys2Proof.Machine

/-- The five implemented bits of `EVT` (R33, R285): two completion events, three errors. -/
inductive Event where
  | kdone
  | bdone
  | eIllcmd
  | eNokey
  | eBusy
deriving DecidableEq, Repr

/-- The code, that is the bit number, of an event or error (R285). -/
def eventCode : Event → Nat
  | .kdone => 0
  | .bdone => 1
  | .eIllcmd => 4
  | .eNokey => 5
  | .eBusy => 6

/-- The mask column of R285. -/
def eventMask (e : Event) : Byte := 1#8 <<< eventCode e

/-- The implemented bits of `EVT` and `IEN` (R33, R34). -/
def implementedBits : Byte := 0x73#8

/-- The error bits `EVT[6:4]` (R31). -/
def errorBits : Byte := 0x70#8

/-- `EVT[code] <- 1`; the bit is sticky (R33). -/
def setEvent (e : Event) (s : State) : State := { s with evt := s.evt ||| eventMask e }

/-- `BUSY = 1` exactly when `STAGE != IDLE` (R29). -/
def State.busy (s : State) : Bool := s.stage != .idle

/-- `ERRS`: 1 exactly when `EVT[6:4] != 0` (R31). -/
def State.errs (s : State) : Bool := s.evt &&& errorBits != 0#8

/-- The byte `STATUS` reads as: `BUSY + 2·KV + 4·OV + 8·ERRS` (R31). -/
def State.status (s : State) : Byte :=
  BitVec.ofNat 8 (s.busy.toNat + 2 * s.kv.toNat + 4 * s.ov.toNat + 8 * s.errs.toNat)

/-- The interrupt output: `irq = 1` exactly when `(EVT and IEN) != 0` (R35). -/
def State.irq (s : State) : Bool := s.evt &&& s.ien != 0#8

end Sys2Proof.Machine
end

