-- ==== Sys2Proof/Machine/Operands.lean ====
section
/-! DEFINITION. Where operands stand: the register a window offset selects (20_memory.md), the implicit
operands of the commands and stages (R91), and the sequencer's position (R28). -/

namespace Sys2Proof.Machine

/-- A register of the window (R61). -/
inductive WindowReg where
  | key (k : Fin 8)
  | din (k : Fin 8)
  | dout (k : Fin 8)
  | cmd
  | status
  | evt
  | ien
  | reserved
deriving DecidableEq, Repr

/-- The byte index of a data register: its offset less the register's base, which is its low three bits
since the bases are multiples of 8 (R61, R66). -/
def byteIndex (a : Offset) : Fin 8 := ⟨a.toNat % 8, Nat.mod_lt _ (by decide)⟩

/-- The register at an offset, the map of R61. -/
def windowReg (a : Offset) : WindowReg :=
  if a.toNat < 0x08 then .key (byteIndex a)
  else if a.toNat < 0x10 then .din (byteIndex a)
  else if a.toNat < 0x18 then .dout (byteIndex a)
  else if a.toNat = 0x18 then .cmd
  else if a.toNat = 0x19 then .status
  else if a.toNat = 0x1A then .evt
  else if a.toNat = 0x1B then .ien
  else .reserved

/-- The offsets of the control registers (R36). -/
def cmdOffset : Offset := 0x18#6
/-- See `cmdOffset`. -/
def statusOffset : Offset := 0x19#6
/-- See `cmdOffset`. -/
def evtOffset : Offset := 0x1A#6
/-- See `cmdOffset`. -/
def ienOffset : Offset := 0x1B#6

/-- The offset of `KEY[k]` (R66). -/
def keyOffset (k : Fin 8) : Offset := BitVec.ofNat 6 k.val
/-- The offset of `DIN[k]` (R66). -/
def dinOffset (k : Fin 8) : Offset := BitVec.ofNat 6 (0x08 + k.val)
/-- The offset of `DOUT[k]` (R66). -/
def doutOffset (k : Fin 8) : Offset := BitVec.ofNat 6 (0x10 + k.val)

/-- The key as bits, the operand of `KEYGEN` (R20, R91). -/
def keyBits (s : State) : Bits 64 := bytesToBits s.key

/-- The input block as bits, an operand of `ENC` and `DEC` (R21, R91). -/
def dinBits (s : State) : Bits 64 := bytesToBits s.din

/-- `ridx(dir, i)` (R214). -/
def ridx (dir : Bool) (i : Fin 16) : Fin 16 := if dir then ⟨15 - i.val, by omega⟩ else i

/-- The round key that the next `BLK_RND` step reads, `RK[ridx(DIR, RND)]` (R204, R214). -/
def roundKey (s : State) : Bits 48 := s.rk[ridx s.dir s.rnd]

/-- The 3-bit code of a stage (R95). -/
def stageCode : Stage → Bits 3
  | .idle => 0b000#3
  | .ksPc1 => 0b001#3
  | .ksRnd => 0b010#3
  | .blkIp => 0b011#3
  | .blkRnd => 0b100#3
  | .blkFp => 0b101#3

/-- The stage with a code (R95); none for the two codes no rule assigns. -/
def stageOfCode (c : Bits 3) : Option Stage :=
  [Stage.idle, .ksPc1, .ksRnd, .blkIp, .blkRnd, .blkFp].find? fun st => stageCode st == c

/-- The instruction the sequencer executes in a stage: the one its code decodes to (R95, R219). -/
def stageInstr : Stage → Instr
  | .idle => .idle
  | .ksPc1 => .ksPc1
  | .ksRnd => .ksRnd
  | .blkIp => .blkIp
  | .blkRnd => .blkRnd
  | .blkFp => .blkFp

/-- The advance of the sequencer's position in a round stage (R28): `RND + 1` in the same stage while
`RND < 15`; at `RND = 15`, `RND = 0` and the stage moves on to `last`. -/
def advanceRound (last : Stage) (s : State) : State :=
  if h : s.rnd.val < 15 then { s with rnd := ⟨s.rnd.val + 1, by omega⟩ }
  else { s with rnd := 0, stage := last }

end Sys2Proof.Machine
end

