-- ==== Sys2Proof/Machine/Ops.lean ====
section
/-! DEFINITION. The shared operations: raising an error and acknowledging it, accepting a command, the
reset event, and the host's byte read and byte write of the register window. -/

namespace Sys2Proof.Machine

/-- Taking an exception: `raise E_x` sets `EVT[code(E_x)]` and makes no other change (R281); nothing is
saved, no mode changes, no control is transferred (R291). -/
def raise (e : Event) (s : State) : State := setEvent e s

/-- The return from an exception: the host acknowledges by writing ones to `EVT`, which restores nothing
(R292); `EVT <- EVT and not (v and 0x73)` (R64). -/
def acknowledge (v : Byte) (s : State) : State :=
  { s with evt := s.evt &&& ~~~(v &&& implementedBits) }

/-- The write of `IEN`: bits outside `0x73` are hardwired 0 (R34). -/
def writeIen (v : Byte) (s : State) : State := { s with ien := v &&& implementedBits }

/-- An accepted write of `KEY[k]`, which clears `KV` whatever the value written (R32, R64). -/
def writeKeyByte (k : Fin 8) (v : Byte) (s : State) : State :=
  { s with key := s.key.set k v, kv := false }

/-- An accepted write of `DIN[k]` (R64). -/
def writeDinByte (k : Fin 8) (v : Byte) (s : State) : State := { s with din := s.din.set k v }

/-- What needs an idle sequencer: raise `E_BUSY` and nothing else while `BUSY = 1`, else the effect
(R64, R282). -/
def whenIdle (effect : State → State) (s : State) : State :=
  if s.busy then raise .eBusy s else effect s

/-- The reset event (R320, R321): every register takes its value of R39, in any state. The host's
program, the schedule and the read log are not the KFCC's and stay. -/
def resetCore (s : State) : State :=
  { State.reset with prog := s.prog, sched := s.sched, readLog := s.readLog }

/-- `MemRead(a, 1)`, the table of R63. -/
def memRead (a : Offset) (s : State) : Byte :=
  match windowReg a with
  | .key _ => 0x00#8
  | .din k => s.din[k]
  | .dout k => s.dout[k]
  | .cmd => 0x00#8
  | .status => s.status
  | .evt => s.evt
  | .ien => s.ien
  | .reserved => 0x00#8

/-- A write of byte `v` to `CMD`: while `BUSY = 1` it raises `E_BUSY` and the byte is not decoded; a
reserved byte raises `E_ILLCMD`; any other is executed (R92, R93, R290). `run` executes a decoded
command (it is `exec`). -/
def writeCmd (run : Instr → State → Host.Outcome State Fault Refusal) (v : Byte) (s : State) :
    Host.Outcome State Fault Refusal :=
  if s.busy then .next (raise .eBusy s)
  else
    match decodeCmd v with
    | .ok i => run i s
    | .error _ => .next (raise .eIllcmd s)

/-- `MemWrite(a, 1, v)`, the table of R64. -/
def memWrite (run : Instr → State → Host.Outcome State Fault Refusal) (a : Offset) (v : Byte)
    (s : State) : Host.Outcome State Fault Refusal :=
  match windowReg a with
  | .key k => .next (whenIdle (writeKeyByte k v) s)
  | .din k => .next (whenIdle (writeDinByte k v) s)
  | .dout _ => .next s
  | .cmd => writeCmd run v s
  | .status => .next s
  | .evt => .next (acknowledge v s)
  | .ien => .next (writeIen v s)
  | .reserved => .next s

end Sys2Proof.Machine
end

