-- ==== Sys2Proof/Machine/Agents.lean ====
section
/-! DEFINITION. The turns of the three agents (R18, R71, R321): every step of the machine is one turn.
`run` executes an instruction (it is `exec`, which Machine/Step.lean passes in). -/

namespace Sys2Proof.Machine

/-- Who takes the next step: the head of the schedule, so that every interleaving of R71 is a run. When
no turn is planned the sequencer goes first while it has a step (R331: it is never starved), else the
host (assumption log entry 2). -/
def nextAgent (s : State) : Agent :=
  match s.sched with
  | a :: _ => a
  | [] => if s.busy then .sequencer else .host

/-- The turn is taken off the schedule. -/
def popTurn (s : State) : State := { s with sched := s.sched.tail }

/-- A byte returned to the host. -/
def logRead (a : Offset) (b : Byte) (s : State) : State :=
  { s with readLog := s.readLog ++ [(a, b)] }

/-- What the host goes on with. -/
def setProg (p : List HostOp) (s : State) : State := { s with prog := p }

/-- The host's step: its next transaction, atomically (R62). A read returns a byte and changes no
register (R63); `WAIT` is one read of `STATUS`, repeated while the byte read has bit 0 set (R99); with
nothing left to issue the turn passes. -/
def hostTurn (run : Instr → State → Host.Outcome State Fault Refusal) (s : State) :
    Host.Outcome State Fault Refusal :=
  match s.prog with
  | [] => .next s
  | .rd a :: rest => .next (setProg rest (logRead a (memRead a s) s))
  | .wr a v :: rest => memWrite run a v (setProg rest s)
  | .wait :: rest =>
    let b := memRead statusOffset s
    .next (setProg (if b.getLsbD 0 then s.prog else rest) (logRead statusOffset b s))

/-- The sequencer's step: the instruction of its stage (R18, R219). -/
def sequencerTurn (run : Instr → State → Host.Outcome State Fault Refusal) (s : State) :
    Host.Outcome State Fault Refusal :=
  run (stageInstr s.stage) s

/-- One step of the machine: one turn of the agent whose turn it is. -/
def stepWith (run : Instr → State → Host.Outcome State Fault Refusal) (s : State) :
    Host.Outcome State Fault Refusal :=
  match nextAgent s with
  | .host => hostTurn run (popTurn s)
  | .sequencer => sequencerTurn run (popTurn s)
  | .platform => .next (resetCore (popTurn s))

/-- Placing a command where the host's next step issues it: the write of its byte to `CMD`, in an idle
KFCC (a byte is decoded only while `BUSY = 0`, R92). -/
def placeCommand (b : Byte) (s : State) : State :=
  { s with sched := .host :: s.sched, prog := .wr cmdOffset b :: s.prog, stage := .idle }

/-- Placing a stage where the sequencer's next step executes it. -/
def placeStage (st : Stage) (s : State) : State :=
  { s with sched := .sequencer :: s.sched, stage := st }

/-- Placing a word of either format; a stage code that no rule assigns leaves the state as it is. -/
def placeWord (w : CodeWord) (s : State) : State :=
  match w with
  | .cmd b => placeCommand b s
  | .stage c =>
    match stageOfCode c with
    | some st => placeStage st s
    | none => s

end Sys2Proof.Machine
end

