-- ==== Sys2Proof/Machine/KeySchedule.lean ====
section
/-! DEFINITION. The key schedule (42_key_schedule.md): the function `KS`, the command `KEYGEN` and the
stages `KS_PC1` and `KS_RND`. The functions and the stages take the tables as an argument (R9, R149);
the meanings of the stages are the stages at `tbl`, the tables of this hardware (R150). -/

namespace Sys2Proof.Machine

/-- The halves `(C[-1], D[-1])` that PC-1 gives (R171). -/
def ksStart (t : Tables) (key : Bits 64) : Bits 28 × Bits 28 :=
  let w := permute key t.pc1
  (slice w 0 28, slice w 28 28)

/-- Both halves rotated left by `SHIFT[i]` (R171). -/
def ksRotate (t : Tables) (i : Fin 16) (cd : Bits 28 × Bits 28) : Bits 28 × Bits 28 :=
  (rotateLeft cd.1 t.shift[i], rotateLeft cd.2 t.shift[i])

/-- The subkey of rotated halves: `permute(C ‖ D, PC2)` (R171). -/
def ksCompress (t : Tables) (cd : Bits 28 × Bits 28) : Bits 48 := permute (cd.1 ++ cd.2) t.pc2

/-- The halves before round `i`, that is after `i` rounds; the rotation is cumulative (R171). -/
def ksHalves (t : Tables) (key : Bits 64) : Nat → Bits 28 × Bits 28
  | 0 => ksStart t key
  | i + 1 => if h : i < 16 then ksRotate t ⟨i, h⟩ (ksHalves t key i) else ksHalves t key i

/-- The round key `K[i]`, taken from the halves after round `i`'s rotation (R171). -/
def ksKey (t : Tables) (key : Bits 64) (i : Fin 16) : Bits 48 :=
  ksCompress t (ksHalves t key (i.val + 1))

/-- `KS(key)`, sixteen round keys, round 0 first (R171). -/
def ks (t : Tables) (key : Bits 64) : Vector (Bits 48) 16 := Vector.ofFn (ksKey t key)

/-- `KEYGEN` (R170): the accepting host step. -/
def execKeygen (s : State) : Host.Outcome State Fault Refusal :=
  .next (whenIdle (fun s => { s with kv := false, stage := .ksPc1 }) s)

/-- Stage `KS_PC1` (R172) with the tables `t`. -/
def stageKsPc1 (t : Tables) (s : State) : State :=
  let cd := ksStart t (keyBits s)
  { s with c := cd.1, d := cd.2, rnd := 0, stage := .ksRnd }

/-- The completion of a `KEYGEN` in its last step (R173): `KV` and `EVT.KDONE`. -/
def completeKeygen (s : State) : State := setEvent .kdone { s with kv := true }

/-- Stage `KS_RND` (R173) with `i = RND` and the tables `t`. -/
def stageKsRnd (t : Tables) (s : State) : State :=
  let cd := ksRotate t s.rnd (s.c, s.d)
  let u := advanceRound .idle { s with c := cd.1, d := cd.2, rk := s.rk.set s.rnd (ksCompress t cd) }
  if s.rnd.val < 15 then u else completeKeygen u

/-- Stage `KS_PC1` of this hardware. -/
def execKsPc1 (s : State) : Host.Outcome State Fault Refusal := .next (stageKsPc1 tbl s)

/-- Stage `KS_RND` of this hardware. -/
def execKsRnd (s : State) : Host.Outcome State Fault Refusal := .next (stageKsRnd tbl s)

end Sys2Proof.Machine
end

