-- ==== Sys2Proof/Machine/BlockCipher.lean ====
section
/-! DEFINITION. The block function (43_block_cipher.md): the functions `F` and `BLOCK`, the commands
`ENC` and `DEC`, and the stages `BLK_IP`, `BLK_RND` and `BLK_FP`, with the tables as an argument as in
Machine/KeySchedule.lean. -/

namespace Sys2Proof.Machine

/-- The row of a 6-bit chunk: `2*c[0] + c[5]` (R208). -/
def sboxRow (c : Bits 6) : Fin 4 :=
  ⟨2 * (c.getMsbD 0).toNat + (c.getMsbD 5).toNat, by
    have := Bool.toNat_le (c.getMsbD 0); have := Bool.toNat_le (c.getMsbD 5); omega⟩

/-- The column of a 6-bit chunk: `8*c[1] + 4*c[2] + 2*c[3] + c[4]` (R208). -/
def sboxCol (c : Bits 6) : Fin 16 :=
  ⟨8 * (c.getMsbD 1).toNat + 4 * (c.getMsbD 2).toNat + 2 * (c.getMsbD 3).toNat + (c.getMsbD 4).toNat, by
    have := Bool.toNat_le (c.getMsbD 1); have := Bool.toNat_le (c.getMsbD 2)
    have := Bool.toNat_le (c.getMsbD 3); have := Bool.toNat_le (c.getMsbD 4); omega⟩

/-- The four output bits of `SBOX[j]` on a chunk, most significant first (R208). -/
def sboxOut (t : Tables) (j : Fin 8) (c : Bits 6) : Bits 4 :=
  BitVec.ofNat 4 t.sbox[j][sboxRow c][sboxCol c]

/-- `SUB(x)` (R208): chunk `x[6j .. 6j+5]` through `SBOX[j]` to `s[4j .. 4j+3]`. -/
def sub (t : Tables) (x : Bits 48) : Bits 32 :=
  BitVec.ofFnBE fun i =>
    (sboxOut t ⟨i.val / 4, by omega⟩ (slice x (6 * (i.val / 4)) 6)).getMsbD (i.val % 4)

/-- The round function `F(r, k) = permute(SUB(permute(r, E) xor k), P)` (R211, R206 to R209). -/
def roundF (t : Tables) (r : Bits 32) (k : Bits 48) : Bits 32 :=
  permute (sub t (xorBits (permute r t.e) k)) t.p

/-- One Feistel round on `(L, R)`: `(R, L xor F(R, k))` (R210). -/
def feistel (t : Tables) (k : Bits 48) (lr : Bits 32 × Bits 32) : Bits 32 × Bits 32 :=
  (lr.2, xorBits lr.1 (roundF t lr.2 k))

/-- The halves `(L[-1], R[-1])` that IP gives (R202). -/
def blkStart (t : Tables) (b : Bits 64) : Bits 32 × Bits 32 :=
  let w := permute b t.ip
  (slice w 0 32, slice w 32 32)

/-- The output block of the halves after the last round: `permute(R ‖ L, FP)` (R212, R213). -/
def blkFinish (t : Tables) (lr : Bits 32 × Bits 32) : Bits 64 := permute (lr.2 ++ lr.1) t.fp

/-- The halves before round `i`, that is after `i` rounds (R202). -/
def blkHalves (t : Tables) (b : Bits 64) (keys : Vector (Bits 48) 16) : Nat → Bits 32 × Bits 32
  | 0 => blkStart t b
  | i + 1 =>
    if h : i < 16 then feistel t keys[i] (blkHalves t b keys i) else blkHalves t b keys i

/-- `BLOCK(b, ks)` with the sixteen keys in the order they are used (R202). -/
def block (t : Tables) (b : Bits 64) (keys : Vector (Bits 48) 16) : Bits 64 :=
  blkFinish t (blkHalves t b keys 16)

/-- Round keys in the order a direction uses them: `RK[ridx(dir, 0)], …, RK[ridx(dir, 15)]` (R214). -/
def keyOrder (dir : Bool) (keys : Vector (Bits 48) 16) : Vector (Bits 48) 16 :=
  Vector.ofFn fun i => keys[ridx dir i]

/-- The accepting host step of a block command: `E_NOKEY` without a valid key, else `DIR`, `OV` and
`STAGE` (R200, R201). -/
def startBlock (dir : Bool) (s : State) : State :=
  if s.kv then { s with dir := dir, ov := false, stage := .blkIp } else raise .eNokey s

/-- `ENC` (R200): the accepting host step, `DIR <- 0`. -/
def execEnc (s : State) : Host.Outcome State Fault Refusal := .next (whenIdle (startBlock false) s)

/-- `DEC` (R201): the accepting host step, `DIR <- 1`. -/
def execDec (s : State) : Host.Outcome State Fault Refusal := .next (whenIdle (startBlock true) s)

/-- Stage `BLK_IP` (R203) with the tables `t`. -/
def stageBlkIp (t : Tables) (s : State) : State :=
  let lr := blkStart t (dinBits s)
  { s with l := lr.1, r := lr.2, rnd := 0, stage := .blkRnd }

/-- Stage `BLK_RND` (R204) with `i = RND` and the tables `t`; the round key is `RK[ridx(DIR, i)]`
(R214). -/
def stageBlkRnd (t : Tables) (s : State) : State :=
  let lr := feistel t (roundKey s) (s.l, s.r)
  advanceRound .blkFp { s with l := lr.1, r := lr.2 }

/-- Stage `BLK_FP` (R205) with the tables `t`. -/
def stageBlkFp (t : Tables) (s : State) : State :=
  let out : Bits (8 * 8) := blkFinish t (s.l, s.r)
  setEvent .bdone { s with dout := bitsToBytes out, ov := true, stage := .idle }

/-- Stage `BLK_IP` of this hardware. -/
def execBlkIp (s : State) : Host.Outcome State Fault Refusal := .next (stageBlkIp tbl s)

/-- Stage `BLK_RND` of this hardware. -/
def execBlkRnd (s : State) : Host.Outcome State Fault Refusal := .next (stageBlkRnd tbl s)

/-- Stage `BLK_FP` of this hardware. -/
def execBlkFp (s : State) : Host.Outcome State Fault Refusal := .next (stageBlkFp tbl s)

end Sys2Proof.Machine
end

