-- ==== Sys2Proof/Machine/Control.lean ====
section
/-! DEFINITION. The commands that do no cipher work, `NOP` and `CLR` (44_control_commands.md), and the
stage code `IDLE`. -/

namespace Sys2Proof.Machine

/-- `NOP` (R240): no state changes; `E_BUSY` while `BUSY = 1`, like every write to `CMD`. -/
def execNop (s : State) : Host.Outcome State Fault Refusal := .next (whenIdle (fun s => s) s)

/-- The zeroised state of `CLR` (R241): `STAGE`, `EVT` and `IEN` are not written. -/
def zeroise (s : State) : State :=
  { s with
    key := Vector.replicate 8 0#8, din := Vector.replicate 8 0#8, dout := Vector.replicate 8 0#8,
    rk := Vector.replicate 16 0#48, c := 0#28, d := 0#28, l := 0#32, r := 0#32,
    dir := false, rnd := 0, kv := false, ov := false }

/-- `CLR` (R241): all in the one host step. -/
def execClr (s : State) : Host.Outcome State Fault Refusal := .next (whenIdle zeroise s)

/-- Stage code `IDLE` (R29, R219): the sequencer has no step, so its turn passes and nothing changes
(assumption log entry 6). -/
def execIdle (s : State) : Host.Outcome State Fault Refusal := .next s

end Sys2Proof.Machine
end

