-- ==== Sys2Proof/Machine/Dispatch.lean ====
section
/-! DEFINITION. The dispatch of the instructions to their meanings: `exec i s` is, for a command, the
host step that writes its byte to `CMD`, and, for a stage, the sequencer step in that stage. -/

namespace Sys2Proof.Machine

def exec (i : Instr) (s : State) : Host.Outcome State Fault Refusal :=
  match i with
  | .nop => Sys2Proof.Machine.execNop s
  | .keygen => Sys2Proof.Machine.execKeygen s
  | .enc => Sys2Proof.Machine.execEnc s
  | .dec => Sys2Proof.Machine.execDec s
  | .clr => Sys2Proof.Machine.execClr s
  | .idle => Sys2Proof.Machine.execIdle s
  | .ksPc1 => Sys2Proof.Machine.execKsPc1 s
  | .ksRnd => Sys2Proof.Machine.execKsRnd s
  | .blkIp => Sys2Proof.Machine.execBlkIp s
  | .blkRnd => Sys2Proof.Machine.execBlkRnd s
  | .blkFp => Sys2Proof.Machine.execBlkFp s

end Sys2Proof.Machine
end

