-- ==== Sys2Proof/Machine/Step.lean ====
section
/-! DEFINITION. One step of the machine. -/

namespace Sys2Proof.Machine

/-- One step: one turn of one agent (Machine/Agents.lean), executing instructions by `exec`. -/
def step (s : State) : Host.Outcome State Fault Refusal := stepWith exec s

/-- The state with the word of `nbits` bits `w` placed so that the very next step runs it. -/
def State.withFetchWord (s : State) (nbits w : Nat) : State :=
  match tableWord nbits w with
  | some word => placeWord word s
  | none => s

end Sys2Proof.Machine
end

