-- ==== Sys2Proof/Machine/HostLayer.lean ====
section
/-! DEFINITION. The host message layer (45_host_message_layer.md): the pure functions of the driver around
the core. No part of it is hardware and no step of the machine calls it; it is here because the spec
states the message-level properties through it (R262). Text is a list of characters, a hexadecimal
string too. -/

namespace Sys2Proof.Machine

/-- The errors of the host layer (R259); the hardware reports none of them. -/
inductive HostError where
  | lengthError
  | paddingError
  | decodeError
deriving DecidableEq, Repr

/-- The key policy (R250): the first 8 bytes, with zero bytes appended to a shorter key. -/
def keyPolicy (u : List Byte) : Vector Byte 8 := Vector.ofFn fun k => u.getD k.val 0x00#8

/-- The number of padding bytes, in `1..8` (R252). -/
def padLength (len : Nat) : Nat := 8 - len % 8

/-- `pad` (R252). -/
def pad (data : List Byte) : List Byte :=
  data ++ List.replicate (padLength data.length) (BitVec.ofNat 8 (padLength data.length))

/-- `unpad` (R253): only the last byte is examined; an empty buffer is a `PaddingError`. -/
def unpad (data : List Byte) : Except HostError (List Byte) :=
  match data.getLast? with
  | none => .error .paddingError
  | some b =>
    let n := b.toNat
    if n < 1 ∨ 8 < n ∨ data.length < n then .error .paddingError
    else .ok (data.take (data.length - n))

/-- Block `j` is bytes `8j .. 8j+7` (R254). -/
def splitBlocks (data : List Byte) : List (Vector Byte 8) :=
  (List.range (data.length / 8)).map fun j => Vector.ofFn fun k => data.getD (8 * j + k.val) 0x00#8

/-- The bytes of blocks, concatenated in order (R254). -/
def joinBlocks (blocks : List (Vector Byte 8)) : List Byte := blocks.flatMap Vector.toList

/-- The hexadecimal digit of a nibble, upper case (R255). -/
def hexDigit (n : Nat) : Char :=
  if n < 10 then Char.ofNat (0x30 + n) else Char.ofNat (0x41 + (n - 10))

/-- Hex encoding (R255): two digits a byte, high nibble first. -/
def hexEncode (data : List Byte) : List Char :=
  data.flatMap fun b => [hexDigit (b.toNat / 16), hexDigit (b.toNat % 16)]

/-- The value of a hexadecimal digit of either case (R256). -/
def hexValue (c : Char) : Option Nat :=
  if 0x30 ≤ c.toNat ∧ c.toNat ≤ 0x39 then some (c.toNat - 0x30)
  else if 0x41 ≤ c.toNat ∧ c.toNat ≤ 0x46 then some (c.toNat - 0x41 + 10)
  else if 0x61 ≤ c.toNat ∧ c.toNat ≤ 0x66 then some (c.toNat - 0x61 + 10)
  else none

/-- The bytes of a string of hexadecimal digits; none when its length is odd or a character is no
digit. -/
def hexBytes : List Char → Option (List Byte)
  | [] => some []
  | [_] => none
  | hi :: lo :: rest =>
    match hexValue hi, hexValue lo, hexBytes rest with
    | some h, some l, some bytes => some (BitVec.ofNat 8 (16 * h + l) :: bytes)
    | _, _, _ => none

/-- Hex decoding (R256): malformed strings and byte counts that are no multiple of 8 are rejected. -/
def hexDecode (h : List Char) : Except HostError (List Byte) :=
  match hexBytes h with
  | some bytes => if bytes.length % 8 = 0 then .ok bytes else .error .lengthError
  | none => .error .lengthError

/-- The UTF-8 bytes of one character (R257; UTF-8 itself is defined outside the spec, log entry 9). -/
def utf8Char (c : Char) : List Byte :=
  let n := c.toNat
  if n < 0x80 then [BitVec.ofNat 8 n]
  else if n < 0x800 then [BitVec.ofNat 8 (0xC0 + n / 64), BitVec.ofNat 8 (0x80 + n % 64)]
  else if n < 0x10000 then
    [BitVec.ofNat 8 (0xE0 + n / 4096), BitVec.ofNat 8 (0x80 + n / 64 % 64), BitVec.ofNat 8 (0x80 + n % 64)]
  else
    [BitVec.ofNat 8 (0xF0 + n / 262144), BitVec.ofNat 8 (0x80 + n / 4096 % 64),
     BitVec.ofNat 8 (0x80 + n / 64 % 64), BitVec.ofNat 8 (0x80 + n % 64)]

/-- The UTF-8 bytes of a text (R251, R257). -/
def utf8Encode (text : List Char) : List Byte := text.flatMap utf8Char

/-- A multi-byte UTF-8 sequence being read: how many continuation bytes are still to come, the value so
far, and the least value a sequence of its length may have. -/
structure Utf8Pending where
  todo  : Nat
  value : Nat
  least : Nat
deriving DecidableEq, Repr

/-- What the lead byte of a sequence says: a whole character, or a sequence to read; none for a byte
that cannot lead. -/
def utf8Lead (n : Nat) : Option (Char ⊕ Utf8Pending) :=
  if n < 0x80 then some (.inl (Char.ofNat n))
  else if 0xC0 ≤ n ∧ n < 0xE0 then some (.inr ⟨1, n - 0xC0, 0x80⟩)
  else if 0xE0 ≤ n ∧ n < 0xF0 then some (.inr ⟨2, n - 0xE0, 0x800⟩)
  else if 0xF0 ≤ n ∧ n < 0xF8 then some (.inr ⟨3, n - 0xF0, 0x10000⟩)
  else none

/-- The character of a finished sequence; none when the sequence is overlong, a surrogate, or beyond the
last code point (R258: decoding is strict). -/
def utf8Finish (value least : Nat) : Option Char :=
  if least ≤ value ∧ value.isValidChar then some (Char.ofNat value) else none

/-- Strict UTF-8 decoding, one byte at a time; none on any invalid sequence (R258). -/
def utf8Read : Option Utf8Pending → List Byte → Option (List Char)
  | none, [] => some []
  | some _, [] => none
  | none, b :: rest =>
    match utf8Lead b.toNat with
    | some (.inl c) => (utf8Read none rest).map fun text => c :: text
    | some (.inr p) => utf8Read (some p) rest
    | none => none
  | some p, b :: rest =>
    if 0x80 ≤ b.toNat ∧ b.toNat < 0xC0 then
      let value := p.value * 64 + (b.toNat - 0x80)
      if p.todo ≤ 1 then
        match utf8Finish value p.least with
        | some c => (utf8Read none rest).map fun text => c :: text
        | none => none
      else utf8Read (some ⟨p.todo - 1, value, p.least⟩) rest
    else none

/-- Strict UTF-8 decoding of a whole buffer (R258). -/
def utf8Decode (data : List Byte) : Except HostError (List Char) :=
  match utf8Read none data with
  | some text => .ok text
  | none => .error .decodeError

/-- One block through the cipher in a direction: what the driver reads from `DOUT` after `LDBLK`,
`ENC` or `DEC`, `WAIT` (R101). -/
def cipherBlock (t : Tables) (dir : Bool) (key block8 : Vector Byte 8) : Vector Byte 8 :=
  let out : Bits (8 * 8) := block t (bytesToBits block8) (keyOrder dir (ks t (bytesToBits key)))
  bitsToBytes out

/-- Every block of a buffer, each independently (R254, R217). -/
def cipherBytes (t : Tables) (dir : Bool) (key : Vector Byte 8) (data : List Byte) : List Byte :=
  joinBlocks ((splitBlocks data).map (cipherBlock t dir key))

/-- `encryptMessage` (R257). The key is given as bytes; a text key is `utf8Encode` of it (R251). -/
def encryptMessage (t : Tables) (plaintext : List Char) (u : List Byte) : List Char :=
  hexEncode (cipherBytes t false (keyPolicy u) (pad (utf8Encode plaintext)))

/-- `decryptMessage` (R258, R260): exactly one of the plaintext, `PaddingError`, `DecodeError` and, for
malformed hex, `LengthError` (R256). -/
def decryptMessage (t : Tables) (cipher : List Char) (u : List Byte) : Except HostError (List Char) :=
  match hexDecode cipher with
  | .error e => .error e
  | .ok bytes =>
    match unpad (cipherBytes t true (keyPolicy u) bytes) with
    | .error e => .error e
    | .ok data => utf8Decode data

end Sys2Proof.Machine
end

