-- ==== Sys2Proof/Machine/Driver.lean ====
section
/-! DEFINITION. Host programs: the pseudo-instructions of R99 as lists of transactions, and the driver
procedures of R257 and R258 written with them. -/

namespace Sys2Proof.Machine

/-- A command on a line of its own: `WR 0x18, <byte>` (R99). -/
def issue (i : Instr) : List HostOp := [.wr cmdOffset (cmdByte i)]

/-- `LDKEY b0 … b7`: eight writes, ascending offsets (R99). -/
def ldKey (k : Vector Byte 8) : List HostOp := List.ofFn fun i => .wr (keyOffset i) k[i]

/-- `LDBLK b0 … b7` (R99). -/
def ldBlk (b : Vector Byte 8) : List HostOp := List.ofFn fun i => .wr (dinOffset i) b[i]

/-- `RDBLK` (R99). -/
def rdBlk : List HostOp := List.ofFn fun i => .rd (doutOffset i)

/-- `ACK m` (R99). -/
def ack (m : Byte) : List HostOp := [.wr evtOffset m]

/-- One block of the loop of R257 and R258: `LDBLK; ENC or DEC; WAIT; RDBLK`. -/
def blockOps (command : Instr) (b : Vector Byte 8) : List HostOp :=
  ldBlk b ++ issue command ++ [.wait] ++ rdBlk

/-- The driver of a whole message (R257, R258): `LDKEY; KEYGEN; WAIT`, every block, and `CLR` at the end
when asked for (R261). -/
def messageOps (command : Instr) (key : Vector Byte 8) (blocks : List (Vector Byte 8)) (clear : Bool) :
    List HostOp :=
  ldKey key ++ issue .keygen ++ [.wait] ++ blocks.flatMap (blockOps command)
    ++ (if clear then issue .clr else [])

/-- The bytes read from `DOUT` in a read log, in order: what the driver's `RDBLK`s delivered. -/
def doutReads (log : List (Offset × Byte)) : List Byte :=
  (log.filter fun e => decide (0x10 ≤ e.1.toNat) && decide (e.1.toNat < 0x18)).map Prod.snd

end Sys2Proof.Machine
end

