-- ==== Sys2Proof/Machine/TableStep.lean ====
section
/-! DEFINITION. The step relation with the constant tables as its argument (R9, R37): the machine that
would have the tables `t`. This hardware is the machine at `tbl` (R150); `exec` and `step` are it. -/

namespace Sys2Proof.Machine

/-- The meaning of an instruction with the tables `t`: the stages read them, the commands do not (R96,
R74). -/
def execFor (t : Tables) (i : Instr) (s : State) : Host.Outcome State Fault Refusal :=
  match i with
  | .nop => execNop s
  | .keygen => execKeygen s
  | .enc => execEnc s
  | .dec => execDec s
  | .clr => execClr s
  | .idle => execIdle s
  | .ksPc1 => .next (stageKsPc1 t s)
  | .ksRnd => .next (stageKsRnd t s)
  | .blkIp => .next (stageBlkIp t s)
  | .blkRnd => .next (stageBlkRnd t s)
  | .blkFp => .next (stageBlkFp t s)

/-- One step with the tables `t`, which no step changes (R37). -/
def stepFor (t : Tables) (s : State) : Host.Outcome State Fault Refusal := stepWith (execFor t) s

/-- The machine with the tables `t`. -/
def coreFor (t : Tables) : Host.Core where
  State := State
  Fault := Fault
  Refusal := Refusal
  step := stepFor t
  reset := State.reset

end Sys2Proof.Machine
end

