-- ==== Sys2Proof/Safety.lean ====
section
/-! DEFINITION. What counts as a safe run: the invariant of reachable states (R40, with what R178 and R220
say of a command in progress) and the absence of errors (R287). -/

namespace Sys2Proof

open Sys2Proof.Machine

/-- The reserved bits of `EVT` and `IEN` (R40 (e)). -/
def reservedBits : Byte := 0x8C#8

/-- The stages of `KEYGEN`. -/
def keygenStage (st : Stage) : Bool := st == .ksPc1 || st == .ksRnd

/-- The stages of `ENC` and `DEC`. -/
def blockStage (st : Stage) : Bool := st == .blkIp || st == .blkRnd || st == .blkFp

/-- The round keys in the order the block command in progress uses them (R214). -/
def usedKeys (s : State) : Vector (Bits 48) 16 := keyOrder s.dir s.rk

/-- The invariant of reachable states. The first six fields are R40 (b) to (f) ((a) is the type `Stage`);
the last three say how far a command in progress has come, which makes the whole inductive. `t` is the
table record of the machine (R9). -/
structure Inv (t : Tables) (s : State) : Prop where
  /-- R40 (b). -/
  rnd_zero : s.rnd ≠ 0 → s.stage = .ksRnd ∨ s.stage = .blkRnd
  /-- R40 (c). -/
  keygen_kv : keygenStage s.stage = true → s.kv = false
  /-- R40 (d). -/
  block_kv_ov : blockStage s.stage = true → s.kv = true ∧ s.ov = false
  /-- R40 (e) for `EVT`. -/
  evt_reserved : s.evt &&& reservedBits = 0#8
  /-- R40 (e) for `IEN`. -/
  ien_reserved : s.ien &&& reservedBits = 0#8
  /-- R40 (f). -/
  kv_rk : s.kv = true → s.rk = ks t (keyBits s)
  /-- In `KS_RND` the halves and the entries before `RND` are those of `KS` (R178). -/
  ks_progress : s.stage = .ksRnd →
    (s.c, s.d) = ksHalves t (keyBits s) s.rnd.val ∧
      ∀ j : Fin 16, j < s.rnd → s.rk[j] = ksKey t (keyBits s) j
  /-- In `BLK_RND` the halves are those of `BLOCK` before round `RND` (R220). -/
  blk_progress : s.stage = .blkRnd →
    (s.l, s.r) = blkHalves t (dinBits s) (usedKeys s) s.rnd.val
  /-- In `BLK_FP` the halves are those of `BLOCK` after the last round (R220). -/
  blk_last : s.stage = .blkFp → (s.l, s.r) = blkHalves t (dinBits s) (usedKeys s) 16

/-- No error is pending, `EVT[6:4] = 0`: the postcondition R287 names for a driver. -/
def noError (s : State) : Prop := s.evt &&& errorBits = 0#8

/-- A run without a reset: the platform has no turn (a launch premise of R334). -/
def noReset (s : State) : Prop := Agent.platform ∉ s.sched

end Sys2Proof
end

