-- ==== Sys2Proof/Certificates/Slice0/Obligations.lean ====
section
/-! DEFINITION. The statements for the provers, one `Obligations.<Name>` each, with the few words they are
written in. -/

namespace Sys2Proof.Claims

open Sys2Proof.Machine

/-- The bit at 1-based position `p` of an 8-byte register: bit `[7 - (p-1) mod 8]` of byte `(p-1)/8`
(R20, R65). -/
def registerPosition (reg : Vector Byte 8) (p : Nat) : Bool :=
  (reg.toList.getD ((p - 1) / 8) 0x00#8).getLsbD (7 - (p - 1) % 8)

/-- It is the host's turn and `op` is what it does next. -/
def hostDoes (s : State) (op : HostOp) : Prop := nextAgent s = .host ∧ ∃ rest, s.prog = op :: rest

/-- The host writes the command byte `b` while the sequencer is idle. -/
def idleCommand (s : State) (b : Byte) : Prop := s.stage = .idle ∧ hostDoes s (.wr 0x18#6 b)

/-- The host writes a byte of `KEY` while the sequencer is idle. -/
def idleKeyWrite (s : State) : Prop :=
  s.stage = .idle ∧ ∃ a v, a.toNat < 0x08 ∧ hostDoes s (.wr a v)

/-- The host writes a byte of `DIN` while the sequencer is idle. -/
def idleDinWrite (s : State) : Prop :=
  s.stage = .idle ∧ ∃ a v, 0x08 ≤ a.toNat ∧ a.toNat < 0x10 ∧ hostDoes s (.wr a v)

/-- The sequencer's turn in stage `st`. -/
def sequencerIn (s : State) (st : Stage) : Prop := nextAgent s = .sequencer ∧ s.stage = st

/-- The reset event. -/
def resets (s : State) : Prop := nextAgent s = .platform

/-- The position `(STAGE, RND)` after a sequencer step, the rows of R219 that the sequencer takes. -/
def nextPosition : Stage → Fin 16 → Stage × Fin 16
  | .idle, i => (.idle, i)
  | .ksPc1, _ => (.ksRnd, 0)
  | .ksRnd, i => if i = 15 then (.idle, 0) else (.ksRnd, i + 1)
  | .blkIp, _ => (.blkRnd, 0)
  | .blkRnd, i => if i = 15 then (.blkFp, 0) else (.blkRnd, i + 1)
  | .blkFp, _ => (.idle, 0)

/-- The states agree on everything but `KEY`, `RK`, `C`, `D`, `L` and `R`. -/
def sameButSecrets (s s' : State) : Prop :=
  s' = { s with key := s'.key, rk := s'.rk, c := s'.c, d := s'.d, l := s'.l, r := s'.r }

/-- The table that rotates an `m`-bit sequence left by `k`: `k+1, …, m, 1, …, k` (R126). -/
def rotationTable (m k : Nat) : Vector Nat m := Vector.ofFn fun i => (i.val + k) % m + 1

/-- Sixteen round keys in reverse order. -/
def reversedKeys (keys : Vector (Bits 48) 16) : Vector (Bits 48) 16 :=
  Vector.ofFn fun i => keys[15 - i.val]

/-- The hexadecimal digits in upper case, in the order of their values (R255). -/
def upperDigits : List Char :=
  ['0', '1', '2', '3', '4', '5', '6', '7', '8', '9', 'A', 'B', 'C', 'D', 'E', 'F']

/-- The six digits that have a lower case (R256). -/
def lowerDigits : List Char := ['a', 'b', 'c', 'd', 'e', 'f']

end Sys2Proof.Claims

open Sys2Proof Sys2Proof.Machine Sys2Proof.Claims

/-! ### Commands -/

/-- `NOP` (R240): nothing changes in an idle state; `E_BUSY` in a busy one. Both as the meaning and as
the write of its byte to `CMD`. -/
def Obligations.NopChangesNothing : Prop :=
  ∀ s : State,
    (s.stage = .idle → exec .nop s = .next s ∧ memWrite exec 0x18#6 0x00#8 s = .next s) ∧
    (s.stage ≠ .idle →
      exec .nop s = .next { s with evt := s.evt ||| 0x40#8 } ∧
      memWrite exec 0x18#6 0x00#8 s = .next { s with evt := s.evt ||| 0x40#8 })

/-- `KEYGEN` (R170), the accepting host step: `KV` and `STAGE` and nothing else; `E_BUSY` while busy. -/
def Obligations.KeygenStartsKeySchedule : Prop :=
  ∀ s : State,
    (s.stage = .idle →
      exec .keygen s = .next { s with kv := false, stage := .ksPc1 } ∧
      memWrite exec 0x18#6 0x01#8 s = .next { s with kv := false, stage := .ksPc1 }) ∧
    (s.stage ≠ .idle →
      exec .keygen s = .next { s with evt := s.evt ||| 0x40#8 } ∧
      memWrite exec 0x18#6 0x01#8 s = .next { s with evt := s.evt ||| 0x40#8 })

/-- `ENC` and `DEC` (R200, R201), the accepting host step: `DIR`, `OV` and `STAGE` with a valid key,
`E_NOKEY` and nothing else without one, `E_BUSY` and nothing else while busy. -/
def Obligations.BlockCommandsStartOrRefuse : Prop :=
  ∀ (s : State) (dir : Bool),
    let i : Instr := if dir then .dec else .enc
    let b : Byte := if dir then 0x03#8 else 0x02#8
    (s.stage = .idle → s.kv = true →
      exec i s = .next { s with dir := dir, ov := false, stage := .blkIp } ∧
      memWrite exec 0x18#6 b s = .next { s with dir := dir, ov := false, stage := .blkIp }) ∧
    (s.stage = .idle → s.kv = false →
      exec i s = .next { s with evt := s.evt ||| 0x20#8 } ∧
      memWrite exec 0x18#6 b s = .next { s with evt := s.evt ||| 0x20#8 }) ∧
    (s.stage ≠ .idle →
      exec i s = .next { s with evt := s.evt ||| 0x40#8 } ∧
      memWrite exec 0x18#6 b s = .next { s with evt := s.evt ||| 0x40#8 })

/-- `CLR` (R241): the state is that of reset except `EVT` and `IEN` (and what is not the KFCC's: the
host's program, the schedule, the read log); `E_BUSY` and nothing cleared while busy. -/
def Obligations.ClrZeroisesAllButEvents : Prop :=
  ∀ s : State,
    (s.stage = .idle →
      exec .clr s = .next { State.reset with
        evt := s.evt, ien := s.ien, prog := s.prog, sched := s.sched, readLog := s.readLog } ∧
      memWrite exec 0x18#6 0x04#8 s = exec .clr s) ∧
    (s.stage ≠ .idle →
      exec .clr s = .next { s with evt := s.evt ||| 0x40#8 } ∧
      memWrite exec 0x18#6 0x04#8 s = .next { s with evt := s.evt ||| 0x40#8 })

/-- Stage code `IDLE`: the sequencer has no step (R29), so its turn changes nothing (log entry 6: that
such a turn is a step at all is the model's choice). -/
def Obligations.IdleTurnPasses : Prop :=
  (∀ s : State, exec .idle s = .next s) ∧
  ∀ s : State, nextAgent s = .sequencer → s.stage = .idle →
    step s = .next { s with sched := s.sched.tail }

/-! ### Stages -/

/-- Stage `KS_PC1` (R172): element `i` of `C ‖ D` is the key bit at position `PC1[i]`; nothing else but
the position changes. -/
def Obligations.KsPc1SplitsPermutedKey : Prop :=
  ∀ s : State, ∃ (c d : Bits 28),
    exec .ksPc1 s = .next { s with c := c, d := d, rnd := 0, stage := .ksRnd } ∧
    (∀ i : Fin 28, c.getMsbD i.val = registerPosition s.key (tbl.pc1[i.val]'(by omega))) ∧
    ∀ i : Fin 28, d.getMsbD i.val = registerPosition s.key (tbl.pc1[28 + i.val]'(by omega))

/-- Stage `KS_RND` (R173): both halves rotate left by `SHIFT[RND]`, only `RK[RND]` is written, from the
rotated halves through PC-2, and the last round completes the command. -/
def Obligations.KsRndRotatesAndStoresOneKey : Prop :=
  ∀ s : State, ∃ (c d : Bits 28) (k : Bits 48),
    (∀ j : Fin 28, c.getMsbD j.val = s.c.getMsbD ((j.val + tbl.shift[s.rnd]) % 28)) ∧
    (∀ j : Fin 28, d.getMsbD j.val = s.d.getMsbD ((j.val + tbl.shift[s.rnd]) % 28)) ∧
    (∀ j : Fin 48, k.getMsbD j.val = (c ++ d).getMsbD (tbl.pc2[j] - 1)) ∧
    (∀ n : Fin 16, n.val = s.rnd.val + 1 →
      exec .ksRnd s = .next { s with c := c, d := d, rk := s.rk.set s.rnd k, rnd := n }) ∧
    (s.rnd = 15 →
      exec .ksRnd s = .next { s with c := c, d := d, rk := s.rk.set s.rnd k, rnd := 0, stage := .idle,
                                     kv := true, evt := s.evt ||| 0x01#8 })

/-- Stage `BLK_IP` (R203): element `i` of `L ‖ R` is the block bit at position `IP[i]`; nothing else but
the position changes. -/
def Obligations.BlkIpSplitsPermutedBlock : Prop :=
  ∀ s : State, ∃ (l r : Bits 32),
    exec .blkIp s = .next { s with l := l, r := r, rnd := 0, stage := .blkRnd } ∧
    (∀ i : Fin 32, l.getMsbD i.val = registerPosition s.din (tbl.ip[i.val]'(by omega))) ∧
    ∀ i : Fin 32, r.getMsbD i.val = registerPosition s.din (tbl.ip[32 + i.val]'(by omega))

/-- Stage `BLK_RND` (R204, R210, R214): `(L, R) <- (R, L xor F(R, k))` with `k = RK[RND]` or, for `DEC`,
`RK[15 - RND]`; nothing else but the position changes. -/
def Obligations.BlkRndIsOneFeistelRound : Prop :=
  ∀ (s : State) (j : Fin 16), j.val = (if s.dir then 15 - s.rnd.val else s.rnd.val) →
    (∀ n : Fin 16, n.val = s.rnd.val + 1 →
      exec .blkRnd s = .next { s with l := s.r, r := s.l ^^^ roundF tbl s.r s.rk[j], rnd := n }) ∧
    (s.rnd = 15 →
      exec .blkRnd s = .next { s with l := s.r, r := s.l ^^^ roundF tbl s.r s.rk[j], rnd := 0,
                                      stage := .blkFp })

/-- Stage `BLK_FP` (R205, R212, R213): the bit at position `i + 1` of the new `DOUT` is element
`FP[i] - 1` of `R ‖ L`; `OV`, `EVT.BDONE` and the stage change, and nothing else. -/
def Obligations.BlkFpDeliversOutputBlock : Prop :=
  ∀ s : State, ∃ out : Vector Byte 8,
    exec .blkFp s = .next { s with dout := out, ov := true, stage := .idle, evt := s.evt ||| 0x02#8 } ∧
    ∀ i : Fin 64, registerPosition out (i.val + 1) = (s.r ++ s.l).getMsbD (tbl.fp[i] - 1)

/-- The round function element by element (R211, R206 to R209): expansion, key mixing, the S-box of each
chunk with its row and column, and P, for every admissible table record. -/
def Obligations.RoundFunctionElementwise : Prop :=
  ∀ (t : Tables) (r : Bits 32) (k : Bits 48), t.wf = true →
    ∃ (x : Bits 48) (y : Bits 32),
      (∀ i : Fin 48, x.getMsbD i.val = (r.getMsbD (t.e[i] - 1) ^^ k.getMsbD i.val)) ∧
      (∀ (j : Fin 8) (row : Fin 4) (col : Fin 16),
        row.val = 2 * (x.getMsbD (6 * j.val)).toNat + (x.getMsbD (6 * j.val + 5)).toNat →
        col.val = 8 * (x.getMsbD (6 * j.val + 1)).toNat + 4 * (x.getMsbD (6 * j.val + 2)).toNat
          + 2 * (x.getMsbD (6 * j.val + 3)).toNat + (x.getMsbD (6 * j.val + 4)).toNat →
        8 * (y.getMsbD (4 * j.val)).toNat + 4 * (y.getMsbD (4 * j.val + 1)).toNat
          + 2 * (y.getMsbD (4 * j.val + 2)).toNat + (y.getMsbD (4 * j.val + 3)).toNat
          = t.sbox[j][row][col]) ∧
      ∀ i : Fin 32, (roundF t r k).getMsbD i.val = y.getMsbD (t.p[i] - 1)

/-! ### Laws of the cipher -/

/-- R174 as a law of the function `KS`: after sixteen rounds the halves are those before round 0, for
every key and every table record with the fixed `SHIFT`. -/
def Obligations.SixteenRotationsRestoreHalves : Prop :=
  ∀ (t : Tables) (key : Bits 64), t.shiftWf = true → ksHalves t key 16 = ksStart t key

/-- R176: keys that agree at the positions PC-1 keeps have equal round keys, hence equal ciphertexts in
either direction; with the default tables the ignored positions are the last bit of each byte. -/
def Obligations.DiscardedKeyBitsAreIgnored : Prop :=
  (∀ (t : Tables) (k k' : Bits 64), (∀ i : Fin 56, k.getMsbD (t.pc1[i] - 1) = k'.getMsbD (t.pc1[i] - 1)) →
    ks t k = ks t k' ∧
    ∀ (b : Bits 64) (dir : Bool), block t b (keyOrder dir (ks t k)) = block t b (keyOrder dir (ks t k'))) ∧
  ∀ k k' : Bits 64, k &&& 0xFEFEFEFEFEFEFEFE#64 = k' &&& 0xFEFEFEFEFEFEFEFE#64 → ks tbl k = ks tbl k'

/-- The corner cases of R170: the zero key gives sixteen zero round keys, the key of ones sixteen round
keys of ones, for every admissible table record. -/
def Obligations.ConstantKeysGiveConstantRoundKeys : Prop :=
  ∀ t : Tables, t.wf = true → ∀ i : Fin 16,
    (ks t 0#64)[i] = 0#48 ∧ (ks t 0xFFFFFFFFFFFFFFFF#64)[i] = 0xFFFFFFFFFFFF#48

/-- R215: for every admissible table record, all sixteen round keys and every block, running the block
function with the keys reversed undoes it, in either order. -/
def Obligations.ReversedKeysInvertTheBlockFunction : Prop :=
  ∀ (t : Tables) (keys : Vector (Bits 48) 16) (b : Bits 64), t.wf = true →
    block t (block t b keys) (reversedKeys keys) = b ∧
    block t (block t b (reversedKeys keys)) keys = b

/-- R218: complementing key and block complements the result, in either key order. -/
def Obligations.ComplementingKeyAndBlockComplementsOutput : Prop :=
  ∀ (t : Tables) (key b : Bits 64) (dir : Bool), t.wf = true →
    block t (~~~b) (keyOrder dir (ks t (~~~key))) = ~~~(block t b (keyOrder dir (ks t key)))

/-- The values of the tables satisfy `WF(TBL)` (R149) and have the further properties R158 (a) and (b)
list: P is a bijection, every position occurs in E, PC-1 and PC-2 have distinct entries and omit the
positions named, every S-box row is a permutation. -/
def Obligations.TablesAreAdmissible : Prop :=
  tbl.wf = true ∧ tbl.p.toList.Nodup ∧
  (∀ p : Fin 32, p.val + 1 ∈ tbl.e.toList) ∧
  tbl.pc1.toList.Nodup ∧ (∀ p : Fin 64, p.val + 1 ∈ tbl.pc1.toList ↔ (p.val + 1) % 8 ≠ 0) ∧
  tbl.pc2.toList.Nodup ∧
  (∀ p : Fin 56, p.val + 1 ∈ tbl.pc2.toList ↔ p.val + 1 ∉ [9, 18, 22, 25, 35, 38, 43, 54]) ∧
  ∀ (j : Fin 8) (row : Fin 4), tbl.sbox[j][row].toList.Nodup

/-! ### Bit-sequence primitives -/

/-- R122: the two conversions are mutually inverse. -/
def Obligations.BytesAndBitsConvertBothWays : Prop :=
  (∀ (m : Nat) (bytes : Vector Byte m), bitsToBytes (bytesToBits bytes) = bytes) ∧
  ∀ (m : Nat) (v : Bits (8 * m)), bytesToBits (bitsToBytes v) = v

/-- R126: `permute` distributes over xor, commutes with complement, keeps the constant sequences, and is
undone by the inverse table; the same of `rotateLeft`, which is a `permute`. -/
def Obligations.PermutationLaws : Prop :=
  (∀ (n m : Nat) (t : Vector Nat m) (a b : Bits n), Tables.inRange n t = true →
    permute (xorBits a b) t = xorBits (permute a t) (permute b t) ∧
    permute (~~~a) t = ~~~(permute a t) ∧
    permute (0#n) t = 0#m ∧ permute (BitVec.allOnes n) t = BitVec.allOnes m) ∧
  (∀ (n : Nat) (t u : Vector Nat n) (a : Bits n), Tables.inRange n t = true → Tables.inRange n u = true →
    (∀ p, 1 ≤ p → p ≤ n → Tables.entry u (Tables.entry t p) = p ∧ Tables.entry t (Tables.entry u p) = p) →
    permute (permute a t) u = a ∧ permute (permute a u) t = a) ∧
  ∀ (m k : Nat) (a b : Bits m), k < m →
    rotateLeft a k = permute a (rotationTable m k) ∧
    rotateLeft (xorBits a b) k = xorBits (rotateLeft a k) (rotateLeft b k) ∧
    rotateLeft (~~~a) k = ~~~(rotateLeft a k) ∧
    rotateLeft (0#m) k = 0#m ∧ rotateLeft (BitVec.allOnes m) k = BitVec.allOnes m ∧
    rotateLeft (rotateLeft a k) (m - k) = a

/-- R125: the first `n` elements leave at the front and re-enter at the back; rotating by 0 is the
identity and rotations add modulo the length. -/
def Obligations.RotationsMoveTheFrontToTheBackAndAdd : Prop :=
  ∀ (m n : Nat) (v : Bits m), n < m →
    (∀ i, i < m - n → (rotateLeft v n).getMsbD i = v.getMsbD (n + i)) ∧
    (∀ i, i < n → (rotateLeft v n).getMsbD (m - n + i) = v.getMsbD i) ∧
    rotateLeft v 0 = v ∧
    ∀ b, b < m → rotateLeft (rotateLeft v n) b = rotateLeft v ((n + b) % m)

/-! ### The register window -/

/-- R63: what a read returns at every offset; and the step of a read changes no register: only the
host's program, the schedule and the read log move. -/
def Obligations.ReadsReturnTheRegisterAndChangeNothing : Prop :=
  ∀ (s : State) (a : Offset),
    (a.toNat < 0x08 → memRead a s = 0x00#8) ∧
    (∀ k : Fin 8, a.toNat = 0x08 + k.val → memRead a s = s.din[k]) ∧
    (∀ k : Fin 8, a.toNat = 0x10 + k.val → memRead a s = s.dout[k]) ∧
    (a.toNat = 0x18 → memRead a s = 0x00#8) ∧
    (a.toNat = 0x19 → memRead a s = BitVec.ofNat 8
      (s.busy.toNat + 2 * s.kv.toNat + 4 * s.ov.toNat + 8 * s.errs.toNat)) ∧
    (a.toNat = 0x1A → memRead a s = s.evt) ∧
    (a.toNat = 0x1B → memRead a s = s.ien) ∧
    (0x1C ≤ a.toNat → memRead a s = 0x00#8) ∧
    ∀ rest, nextAgent s = .host → s.prog = .rd a :: rest →
      step s = .next { s with prog := rest, sched := s.sched.tail,
                              readLog := s.readLog ++ [(a, memRead a s)] }

/-- R64: what a write does at every offset. -/
def Obligations.WritesActByOffset : Prop :=
  ∀ (s : State) (a : Offset) (v : Byte),
    let busyError : Host.Outcome State Fault Refusal := .next { s with evt := s.evt ||| 0x40#8 }
    (∀ k : Fin 8, a.toNat = k.val → memWrite exec a v s =
      if s.stage = .idle then .next { s with key := s.key.set k v, kv := false } else busyError) ∧
    (∀ k : Fin 8, a.toNat = 0x08 + k.val → memWrite exec a v s =
      if s.stage = .idle then .next { s with din := s.din.set k v } else busyError) ∧
    (0x10 ≤ a.toNat → a.toNat < 0x18 → memWrite exec a v s = .next s) ∧
    (a.toNat = 0x18 → memWrite exec a v s =
      if s.stage = .idle then
        (if v = 0x00#8 then exec .nop s else if v = 0x01#8 then exec .keygen s
         else if v = 0x02#8 then exec .enc s else if v = 0x03#8 then exec .dec s
         else if v = 0x04#8 then exec .clr s else .next { s with evt := s.evt ||| 0x10#8 })
      else busyError) ∧
    (a.toNat = 0x19 → memWrite exec a v s = .next s) ∧
    (a.toNat = 0x1A → memWrite exec a v s = .next { s with evt := s.evt &&& ~~~(v &&& 0x73#8) }) ∧
    (a.toNat = 0x1B → memWrite exec a v s = .next { s with ien := v &&& 0x73#8 }) ∧
    (0x1C ≤ a.toNat → memWrite exec a v s = .next s)

/-- R31: the bits of `STATUS`, its value as a sum, and that a write of it has no effect. -/
def Obligations.StatusReadsTheFlags : Prop :=
  ∀ (s : State) (v : Byte),
    (memRead 0x19#6 s).getLsbD 0 = decide (s.stage ≠ .idle) ∧
    (memRead 0x19#6 s).getLsbD 1 = s.kv ∧
    (memRead 0x19#6 s).getLsbD 2 = s.ov ∧
    (memRead 0x19#6 s).getLsbD 3 = (s.evt.getLsbD 4 || s.evt.getLsbD 5 || s.evt.getLsbD 6) ∧
    (∀ k, 4 ≤ k → (memRead 0x19#6 s).getLsbD k = false) ∧
    (memRead 0x19#6 s).toNat = s.busy.toNat + 2 * s.kv.toNat + 4 * s.ov.toNat + 8 * s.errs.toNat ∧
    memWrite exec 0x19#6 v s = .next s

/-- R35: `irq` is 1 exactly when an event is both pending and enabled; it depends on `EVT` and `IEN`
alone and is 0 after reset. -/
def Obligations.IrqIsPendingAndEnabled : Prop :=
  (∀ s : State, s.irq = true ↔ ∃ k : Fin 8, s.evt.getLsbD k.val = true ∧ s.ien.getLsbD k.val = true) ∧
  (∀ s s' : State, s.evt = s'.evt → s.ien = s'.ien → s.irq = s'.irq) ∧
  State.reset.irq = false

/-- R33, R34: a write of `EVT` clears the implemented bits written as 1 and leaves the others; a write of
`IEN` stores the implemented bits; neither changes anything else, busy or not. -/
def Obligations.EvtAndIenWrites : Prop :=
  ∀ (s : State) (v : Byte), ∃ evt ien : Byte,
    memWrite exec 0x1A#6 v s = .next { s with evt := evt } ∧
    memWrite exec 0x1B#6 v s = .next { s with ien := ien } ∧
    ∀ k : Fin 8,
      evt.getLsbD k.val = (s.evt.getLsbD k.val && !(v.getLsbD k.val && decide (k.val ∈ [0, 1, 4, 5, 6]))) ∧
      ien.getLsbD k.val = (v.getLsbD k.val && decide (k.val ∈ [0, 1, 4, 5, 6]))

/-! ### Errors, events, reset -/

/-- R281: raising an error sets its bit of `EVT` (4, 5 or 6) and changes nothing else; a second occurrence
makes no difference; `ERRS` reads 1 and `irq` is 1 when the bit is enabled. -/
def Obligations.RaisingSetsOneBitAndNothingElse : Prop :=
  ∀ (s : State) (e : Event) (code : Nat),
    (e = .eIllcmd ∧ code = 4 ∨ e = .eNokey ∧ code = 5 ∨ e = .eBusy ∧ code = 6) →
    raise e s = { s with evt := (raise e s).evt } ∧
    (∀ k : Fin 8, (raise e s).evt.getLsbD k.val = (s.evt.getLsbD k.val || decide (k.val = code))) ∧
    raise e (raise e s) = raise e s ∧
    (raise e s).errs = true ∧
    (s.ien.getLsbD code = true → (raise e s).irq = true)

/-- R282: while busy, a write of `KEY`, `DIN` or `CMD` sets `EVT[6]` and nothing else, whatever the byte;
a write elsewhere does not set it, no write in an idle state does, and no read does. -/
def Obligations.BusyWritesAreRefused : Prop :=
  ∀ (s : State) (a : Offset) (v : Byte),
    (s.stage ≠ .idle → a.toNat < 0x10 ∨ a.toNat = 0x18 →
      memWrite exec a v s = .next { s with evt := s.evt ||| 0x40#8 }) ∧
    ((s.stage = .idle ∨ 0x10 ≤ a.toNat ∧ a.toNat ≠ 0x18) →
      ∃ t, memWrite exec a v s = .next t ∧ (t.evt.getLsbD 6 = true → s.evt.getLsbD 6 = true)) ∧
    ∀ rest, nextAgent s = .host → s.prog = .rd a :: rest → ∃ t, step s = .next t ∧ State.evt t = s.evt

/-- R283: a reserved byte written to `CMD` of an idle KFCC sets `EVT[4]` and nothing else. -/
def Obligations.ReservedCommandsAreRefused : Prop :=
  ∀ (s : State) (v : Byte), s.stage = .idle → 0x05 ≤ v.toNat →
    memWrite exec 0x18#6 v s = .next { s with evt := s.evt ||| 0x10#8 }

/-- R290: a write sets at most one error bit, and which one is decided in the order `E_BUSY`, `E_ILLCMD`,
`E_NOKEY`. -/
def Obligations.OneWriteRaisesAtMostOneError : Prop :=
  ∀ (s t : State) (a : Offset) (v : Byte), memWrite exec a v s = .next t →
    (∀ k k' : Fin 8, k.val ∈ [4, 5, 6] → k'.val ∈ [4, 5, 6] →
      s.evt.getLsbD k.val = false → t.evt.getLsbD k.val = true →
      s.evt.getLsbD k'.val = false → t.evt.getLsbD k'.val = true → k = k') ∧
    (t.evt.getLsbD 6 = true → s.evt.getLsbD 6 = false →
      s.stage ≠ .idle ∧ (a.toNat < 0x10 ∨ a.toNat = 0x18)) ∧
    (t.evt.getLsbD 4 = true → s.evt.getLsbD 4 = false → s.stage = .idle ∧ a.toNat = 0x18 ∧ 0x05 ≤ v.toNat) ∧
    (t.evt.getLsbD 5 = true → s.evt.getLsbD 5 = false →
      s.stage = .idle ∧ a.toNat = 0x18 ∧ (v = 0x02#8 ∨ v = 0x03#8) ∧ s.kv = false)

/-- R39: the value of every register after reset; `STATUS` reads 0, `irq` is 0, and block commands are
refused with `E_NOKEY`. -/
def Obligations.ResetValues : Prop :=
  let s := State.reset
  (∀ k : Fin 8, s.key[k] = 0x00#8 ∧ s.din[k] = 0x00#8 ∧ s.dout[k] = 0x00#8) ∧
  (∀ i : Fin 16, s.rk[i] = 0#48) ∧
  s.c = 0#28 ∧ s.d = 0#28 ∧ s.l = 0#32 ∧ s.r = 0#32 ∧ s.dir = false ∧ s.rnd = 0 ∧ s.stage = .idle ∧
  s.kv = false ∧ s.ov = false ∧ s.evt = 0x00#8 ∧ s.ien = 0x00#8 ∧
  s.busy = false ∧ s.errs = false ∧ memRead 0x19#6 s = 0x00#8 ∧ s.irq = false ∧
  exec .enc s = .next { s with evt := 0x20#8 } ∧ exec .dec s = .next { s with evt := 0x20#8 }

/-- R320, R321: the reset event puts every register at its reset value, whatever is in progress. That the
host's program, the schedule and the read log stay is the model's choice (log entry 2). -/
def Obligations.ResetEventAbandonsEverything : Prop :=
  ∀ s : State, nextAgent s = .platform →
    step s = .next { State.reset with prog := s.prog, sched := s.sched.tail, readLog := s.readLog }

/-! ### Steps of the machine -/

/-- A step runs the decoded instruction: on the sequencer's turn the instruction its stage code decodes
to, and on the host's turn, for a write of a byte to `CMD` of an idle KFCC, the command the byte decodes
to; around it a step only takes the turn off the schedule and the transaction off the host's program. -/
def Obligations.StepRunsTheDecodedInstruction : Prop :=
  (∀ (s : State) (i : Instr), nextAgent s = .sequencer → decode (.stage (stageCode s.stage)) = .ok i →
    step s = exec i { s with sched := s.sched.tail }) ∧
  ∀ (s : State) (b : Byte) (i : Instr) (rest : List HostOp),
    nextAgent s = .host → s.prog = .wr 0x18#6 b :: rest → s.stage = .idle → decode (.cmd b) = .ok i →
    step s = exec i { s with sched := s.sched.tail, prog := rest }

/-- The host's turns: a write acts on the window (R62), a poll of `WAIT` repeats while `BUSY` reads 1
(R99), and with nothing to issue the turn passes; the schedule's head is who moves, and an empty schedule
gives the turn to a busy sequencer, else to the host (log entry 2, the model's choice). -/
def Obligations.HostTurnsFollowTheProgram : Prop :=
  (∀ (s : State) (a : Agent) (rest : List Agent), s.sched = a :: rest → nextAgent s = a) ∧
  (∀ s : State, s.sched = [] → nextAgent s = if s.stage = .idle then .host else .sequencer) ∧
  ∀ s : State, nextAgent s = .host →
    (s.prog = [] → step s = .next { s with sched := s.sched.tail }) ∧
    (∀ (a : Offset) (v : Byte) (rest : List HostOp), s.prog = .wr a v :: rest →
      step s = memWrite exec a v { s with sched := s.sched.tail, prog := rest }) ∧
    ∀ rest : List HostOp, s.prog = .wait :: rest →
      step s = .next { s with
        sched := s.sched.tail, prog := if s.stage = .idle then rest else s.prog,
        readLog := s.readLog ++ [(0x19#6, s.status)] }

/-- Every run of every length answers a next state; there is no fault and no refusal. R287 and R300 say
so of every host transaction and of every sequencer step of a busy KFCC. That a turn of the sequencer in
`IDLE` (which by R300 has no step), and a turn of a host with nothing to issue, are steps too is the
model's choice (log entries 6 and 2). -/
def Obligations.EveryRunGoesOn : Prop :=
  ∀ (n : Nat) (s : State), ∃ t : State, core.run n s = .next t

/-- The tables are an argument of the step relation, and this hardware is that relation at `tbl` (R9,
R37, R150): `exec`, `step` and every run of `core` are those of the machine with the tables `tbl`; and no
command, nor the stage code `IDLE`, reads the tables. -/
def Obligations.HardwareIsTheMachineAtItsTables : Prop :=
  (∀ (i : Instr) (s : State), exec i s = execFor tbl i s) ∧
  (∀ s : State, step s = stepFor tbl s) ∧
  (∀ (n : Nat) (s : State), core.run n s = (coreFor tbl).run n s) ∧
  ∀ (t t' : Tables) (i : Instr) (s : State), i ∈ [.nop, .keygen, .enc, .dec, .clr, .idle] →
    execFor t i s = execFor t' i s

/-- The five stages with any tables (R9, R172, R173, R203 to R205), by the functions of R171, R202, R211:
each reads the table record it is given. -/
def Obligations.StagesReadTheTablesTheyAreGiven : Prop :=
  ∀ (t : Tables) (s : State),
    execFor t .ksPc1 s = .next { s with
      c := (ksStart t (keyBits s)).1, d := (ksStart t (keyBits s)).2, rnd := 0, stage := .ksRnd } ∧
    (∀ n : Fin 16, n.val = s.rnd.val + 1 → execFor t .ksRnd s = .next { s with
      c := rotateLeft s.c t.shift[s.rnd], d := rotateLeft s.d t.shift[s.rnd],
      rk := s.rk.set s.rnd
        (permute (rotateLeft s.c t.shift[s.rnd] ++ rotateLeft s.d t.shift[s.rnd]) t.pc2),
      rnd := n }) ∧
    (s.rnd = 15 → execFor t .ksRnd s = .next { s with
      c := rotateLeft s.c t.shift[s.rnd], d := rotateLeft s.d t.shift[s.rnd],
      rk := s.rk.set s.rnd
        (permute (rotateLeft s.c t.shift[s.rnd] ++ rotateLeft s.d t.shift[s.rnd]) t.pc2),
      rnd := 0, stage := .idle, kv := true, evt := s.evt ||| 0x01#8 }) ∧
    execFor t .blkIp s = .next { s with
      l := (blkStart t (dinBits s)).1, r := (blkStart t (dinBits s)).2, rnd := 0, stage := .blkRnd } ∧
    (∀ n : Fin 16, n.val = s.rnd.val + 1 → execFor t .blkRnd s = .next { s with
      l := s.r, r := s.l ^^^ roundF t s.r s.rk[if s.dir then 15 - s.rnd else s.rnd], rnd := n }) ∧
    (s.rnd = 15 → execFor t .blkRnd s = .next { s with
      l := s.r, r := s.l ^^^ roundF t s.r s.rk[if s.dir then 15 - s.rnd else s.rnd],
      rnd := 0, stage := .blkFp }) ∧
    execFor t .blkFp s = .next { s with
      dout := bitsToBytes (m := 8) (permute (s.r ++ s.l) t.fp), ov := true, stage := .idle,
      evt := s.evt ||| 0x02#8 }

/-- The invariant holds after reset, whatever the tables. -/
def Obligations.ResetMeetsTheInvariant : Prop := ∀ t : Tables, Inv t State.reset

/-- R40 and the progress of commands: every step of every agent keeps the invariant, of the machine with
any tables and of this hardware. -/
def Obligations.EveryStepKeepsTheInvariant : Prop :=
  (∀ (t : Tables) (s u : State), Inv t s → stepFor t s = .next u → Inv t u) ∧
  ∀ s u : State, Inv tbl s → step s = .next u → Inv tbl u

/-- R219: how each agent's step moves the position `(STAGE, RND)`. The premise is R40 (b), the clause
`rnd_zero` of `Inv`. That a turn of the sequencer in `IDLE` and a turn of a host with nothing to issue are
steps, which leave `(IDLE, 0)`, is the model's choice (log entries 6 and 2). -/
def Obligations.PositionFollowsTheTransitionTable : Prop :=
  ∀ s t : State, step s = .next t → (s.rnd ≠ 0 → s.stage = .ksRnd ∨ s.stage = .blkRnd) →
    (nextAgent s = .sequencer → (t.stage, t.rnd) = nextPosition s.stage s.rnd) ∧
    (nextAgent s = .platform → (t.stage, t.rnd) = (.idle, 0)) ∧
    (nextAgent s = .host → s.stage ≠ .idle → (t.stage, t.rnd) = (s.stage, s.rnd)) ∧
    (idleCommand s 0x01#8 → (t.stage, t.rnd) = (.ksPc1, 0)) ∧
    (idleCommand s 0x02#8 ∨ idleCommand s 0x03#8 → s.kv = true → (t.stage, t.rnd) = (.blkIp, 0)) ∧
    (nextAgent s = .host → s.stage = .idle → ¬ idleCommand s 0x01#8 →
      ¬ ((idleCommand s 0x02#8 ∨ idleCommand s 0x03#8) ∧ s.kv = true) → (t.stage, t.rnd) = (.idle, 0))

/-- R71 (d): no sequencer step but the last of a command changes what any read returns. -/
def Obligations.CommandsAreSilentUntilTheyComplete : Prop :=
  ∀ s t : State, nextAgent s = .sequencer → step s = .next t → t.busy = true →
    ∀ a : Offset, memRead a t = memRead a s

/-- R71 (c): the step that ends a command leaves its whole result, its flag and its completion event,
and the result is the one the functions `KS` and `BLOCK` give. -/
def Obligations.CompletionPublishesTheResult : Prop :=
  ∀ s t : State, Inv tbl s → nextAgent s = .sequencer → step s = .next t → s.busy = true → t.busy = false →
    (keygenStage s.stage = true →
      t.kv = true ∧ t.evt.getLsbD 0 = true ∧ t.rk = ks tbl (keyBits t) ∧ t.key = s.key) ∧
    (blockStage s.stage = true →
      t.ov = true ∧ t.evt.getLsbD 1 = true ∧ t.din = s.din ∧ t.rk = s.rk ∧
      t.dout = bitsToBytes (m := 8) (block tbl (dinBits t) (usedKeys t)))

/-- R20 to R27: the only steps that change each data and working register. -/
def Obligations.WhoChangesEachRegister : Prop :=
  ∀ s t : State, step s = .next t →
    let clears := resets s ∨ idleCommand s 0x04#8
    (t.key ≠ s.key → clears ∨ idleKeyWrite s) ∧
    (t.din ≠ s.din → clears ∨ idleDinWrite s) ∧
    (t.dout ≠ s.dout → clears ∨ sequencerIn s .blkFp) ∧
    (t.rk ≠ s.rk → clears ∨ sequencerIn s .ksRnd) ∧
    ((t.c, t.d) ≠ (s.c, s.d) → clears ∨ sequencerIn s .ksPc1 ∨ sequencerIn s .ksRnd) ∧
    ((t.l, t.r) ≠ (s.l, s.r) → clears ∨ sequencerIn s .blkIp ∨ sequencerIn s .blkRnd) ∧
    (t.dir ≠ s.dir → clears ∨ ((idleCommand s 0x02#8 ∨ idleCommand s 0x03#8) ∧ s.kv = true))

/-- R32: exactly when `KV` and `OV` are set and cleared. -/
def Obligations.WhenKvAndOvChange : Prop :=
  ∀ s t : State, step s = .next t →
    let clears := resets s ∨ idleCommand s 0x04#8
    (s.kv = false → (t.kv = true ↔ sequencerIn s .ksRnd ∧ s.rnd = 15)) ∧
    (s.kv = true → (t.kv = false ↔ clears ∨ idleCommand s 0x01#8 ∨ idleKeyWrite s)) ∧
    (s.ov = false → (t.ov = true ↔ sequencerIn s .blkFp)) ∧
    (s.ov = true →
      (t.ov = false ↔ clears ∨ ((idleCommand s 0x02#8 ∨ idleCommand s 0x03#8) ∧ s.kv = true)))

/-- R33: a bit of `EVT` once set is cleared by nothing but a host write of 1 to it and reset; and `IEN`
changes by nothing but a host write and reset. -/
def Obligations.EventBitsAreSticky : Prop :=
  ∀ s t : State, step s = .next t →
    (∀ k : Fin 8, s.evt.getLsbD k.val = true → t.evt.getLsbD k.val = false →
      resets s ∨ ∃ v : Byte, hostDoes s (.wr 0x1A#6 v) ∧ v.getLsbD k.val = true) ∧
    (t.ien ≠ s.ien → resets s ∨ ∃ v : Byte, hostDoes s (.wr 0x1B#6 v))

/-- R38, R294: the key and everything derived from it reach the host through stage `BLK_FP` only: two
states that agree on all else agree on every read, and any other step keeps them agreeing on all else. -/
def Obligations.KeyMaterialReachesTheHostOnlyThroughBlkFp : Prop :=
  ∀ s s' : State, sameButSecrets s s' →
    (∀ a : Offset, memRead a s = memRead a s') ∧
    ∀ t t' : State, ¬ sequencerIn s .blkFp → step s = .next t → step s' = .next t' → sameButSecrets t t'

/-- R170, R178: an accepted `KEYGEN` computes `KS` of the key, in exactly 17 sequencer steps, however host
turns fall between them; while it runs `KV` is 0, and nothing it is not to touch is touched. Of the machine with any admissible tables, of which this
hardware is the one at `tbl`. -/
def Obligations.KeygenComputesTheKeySchedule : Prop :=
  ∀ (tb : Tables) (s : State) (rest : List HostOp) (turns : List Agent), tb.wf = true →
    s.stage = .idle → s.prog = .wr 0x18#6 0x01#8 :: rest →
    s.sched = .host :: (turns ++ [.sequencer]) → .platform ∉ turns → turns.count .sequencer = 16 →
    (∀ n u, 0 < n → n < s.sched.length → (coreFor tb).run n s = .next u →
      State.busy u = true ∧ State.kv u = false) ∧
    ∃ t : State, (coreFor tb).run s.sched.length s = .next t ∧
      t.stage = .idle ∧ t.rnd = 0 ∧ t.kv = true ∧ t.evt.getLsbD 0 = true ∧
      t.rk = ks tb (bytesToBits s.key) ∧ t.c ++ t.d = permute (bytesToBits s.key) tb.pc1 ∧
      t.key = s.key ∧ t.din = s.din ∧ t.dout = s.dout ∧ t.ov = s.ov ∧ t.l = s.l ∧ t.r = s.r ∧ t.dir = s.dir

/-- R200, R201, R220: an accepted `ENC` or `DEC` computes the block function of the input block, with the
round keys in order or reversed, in exactly 18 sequencer steps, however host turns fall between them;
while it runs `OV` is 0 and `DOUT` is the old result. Of the machine with any tables. -/
def Obligations.BlockCommandsComputeTheBlockFunction : Prop :=
  ∀ (tb : Tables) (s : State) (dir : Bool) (rest : List HostOp) (turns : List Agent),
    s.stage = .idle → s.kv = true →
    s.prog = .wr 0x18#6 (if dir then 0x03#8 else 0x02#8) :: rest →
    s.sched = .host :: (turns ++ [.sequencer]) → .platform ∉ turns → turns.count .sequencer = 17 →
    (∀ n u, 0 < n → n < s.sched.length → (coreFor tb).run n s = .next u →
      State.busy u = true ∧ State.ov u = false ∧ State.dout u = s.dout) ∧
    ∃ t : State, (coreFor tb).run s.sched.length s = .next t ∧
      t.stage = .idle ∧ t.rnd = 0 ∧ t.ov = true ∧ t.evt.getLsbD 1 = true ∧ t.dir = dir ∧
      t.dout = bitsToBytes (m := 8)
        (block tb (bytesToBits s.din) (if dir then reversedKeys s.rk else s.rk)) ∧
      t.din = s.din ∧ t.key = s.key ∧ t.rk = s.rk ∧ t.kv = true ∧ t.c = s.c ∧ t.d = s.d

/-! ### Encoding -/

/-- R92, R93, R95: decoding and encoding agree in both directions, and a word decodes exactly when it is
well formed. -/
def Obligations.DecodeAndEncodeAgree : Prop :=
  (∀ i : Instr, decode (encode i) = .ok i) ∧
  (∀ (w : CodeWord) (i : Instr), decode w = .ok i → encode i = w) ∧
  ∀ w : CodeWord, w.wf = true ↔ ∃ i, decode w = .ok i

/-- Words written out from R92 and R95, and reserved ones from R93 and R95. -/
def Obligations.SpecWordsDecode : Prop :=
  decode (.cmd 0b00000000#8) = .ok .nop ∧ decode (.cmd 0b00000010#8) = .ok .enc ∧
  decode (.cmd 0b00000011#8) = .ok .dec ∧ decode (.cmd 0b10000010#8) = .error .reservedCommand ∧
  decode (.cmd 0b00000101#8) = .error .reservedCommand ∧
  decode (.stage 0b010#3) = .ok .ksRnd ∧ decode (.stage 0b101#3) = .ok .blkFp ∧
  decode (.stage 0b110#3) = .error .unreachableStage

/-! ### The host message layer -/

/-- R250: the key policy on short, exact and long keys. -/
def Obligations.KeyPolicyPadsOrTruncates : Prop :=
  ∀ u : List Byte,
    (u.length < 8 → (keyPolicy u).toList = u ++ List.replicate (8 - u.length) 0x00#8) ∧
    (8 ≤ u.length → (keyPolicy u).toList = u.take 8)

/-- R252, R253: padding appends `n` bytes of value `n`, `1 <= n <= 8`, up to a positive multiple of 8;
unpadding undoes it and fails exactly on a last byte out of range or beyond the buffer. -/
def Obligations.UnpadUndoesPad : Prop :=
  (∀ d : List Byte, ∃ n, n = 8 - d.length % 8 ∧ 1 ≤ n ∧ n ≤ 8 ∧
    pad d = d ++ List.replicate n (BitVec.ofNat 8 n) ∧ 0 < (pad d).length ∧ (pad d).length % 8 = 0 ∧
    unpad (pad d) = .ok d) ∧
  unpad [] = .error .paddingError ∧
  ∀ (d : List Byte) (b : Byte),
    ((b.toNat < 1 ∨ 8 < b.toNat ∨ d.length + 1 < b.toNat) → unpad (d ++ [b]) = .error .paddingError) ∧
    (1 ≤ b.toNat → b.toNat ≤ 8 → b.toNat ≤ d.length + 1 →
      unpad (d ++ [b]) = .ok (d.take (d.length + 1 - b.toNat)))

/-- R255, R256: encoding gives two upper-case digits a byte, the high nibble first, in order; decoding
gives the bytes back, accepts lower case, and rejects any other character and any length that is not a
multiple of 16 digits; nothing at all decodes to no bytes, which `unpad` rejects. -/
def Obligations.HexEncodesAndDecodes : Prop :=
  (∀ d : List Byte,
    (hexEncode d).length = 2 * d.length ∧
    (∀ (k : Nat) (b : Byte), d[k]? = some b →
      (hexEncode d)[2 * k]? = upperDigits[b.toNat / 16]? ∧
      (hexEncode d)[2 * k + 1]? = upperDigits[b.toNat % 16]?) ∧
    (d.length % 8 = 0 → hexDecode (hexEncode d) = .ok d)) ∧
  (∀ h : List Char, hexDecode (h.map Char.toLower) = hexDecode h) ∧
  (∀ h : List Char, (∃ c ∈ h, c ∉ upperDigits ++ lowerDigits) ∨ h.length % 16 ≠ 0 →
    hexDecode h = .error .lengthError) ∧
  ∀ (t : Tables) (u : List Byte), decryptMessage t [] u = .error .paddingError

/-- R217, R254: the cipher of two runs of blocks is the concatenation of their ciphers. -/
def Obligations.BlocksAreIndependent : Prop :=
  ∀ (t : Tables) (dir : Bool) (key : Vector Byte 8) (a b : List Byte), a.length % 8 = 0 →
    cipherBytes t dir key (a ++ b) = cipherBytes t dir key a ++ cipherBytes t dir key b

/-- R262 (1): decrypting an encrypted text with the same key gives the text back, for every text, every
key of any length, and every admissible table record. The text passes through the model's UTF-8, which is
not the spec's but presumed (log entry 9). -/
def Obligations.MessageRoundTrip : Prop :=
  ∀ (t : Tables) (text : List Char) (u : List Byte), t.wf = true →
    decryptMessage t (encryptMessage t text u) u = .ok text

/-- R257, R258: the driver procedure, run by the host on the machine under any schedule without a reset,
comes to its end, has read from `DOUT` the blocks that the cipher functions give, and has raised no
error. Of the machine with any tables. Who moves when the schedule is used up, on which the last steps may
rest, is the model's choice (log entry 2). -/
def Obligations.DriverReadsTheCipherBlocks : Prop :=
  ∀ (tb : Tables) (s : State) (dir : Bool) (key : Vector Byte 8) (blocks : List (Vector Byte 8)) (clear : Bool),
    s.stage = .idle → noReset s →
    s.prog = messageOps (if dir then .dec else .enc) key blocks clear →
    ∃ (n : Nat) (t : State), (coreFor tb).run n s = .next t ∧ t.prog = [] ∧ t.stage = .idle ∧
      doutReads t.readLog = doutReads s.readLog ++ joinBlocks (blocks.map (cipherBlock tb dir key)) ∧
      t.evt &&& errorBits = s.evt &&& errorBits
end

