-- ==== Sys2Proof/Laws/Bits.lean ====
section
/-! SUPPORT. The bit-sequence primitives element by element: what each says of one element of its result,
which is how the rules of 40_bit_primitives.md state them. -/

namespace Sys2Proof.Machine

theorem getMsbD_slice {n : Nat} (v : Bits n) (start len i : Nat) (h : i < len) :
    (slice v start len).getMsbD i = v.getMsbD (start + i) := by
  simp [slice, BitVec.getMsbD_ofFnBE, h]

theorem getMsbD_permute {n m : Nat} (v : Bits n) (t : Vector Nat m) (i : Nat) (h : i < m) :
    (permute v t).getMsbD i = v.getMsbD (t[i] - 1) := by
  simp [permute, BitVec.getMsbD_ofFnBE, h]

theorem getMsbD_rotateLeft {m : Nat} (v : Bits m) (n i : Nat) (h : i < m) :
    (rotateLeft v n).getMsbD i = v.getMsbD ((i + n) % m) := by
  simp [rotateLeft, BitVec.getMsbD_ofFnBE, h]

theorem getMsbD_xorBits {n : Nat} (a b : Bits n) (i : Nat) :
    (xorBits a b).getMsbD i = (a.getMsbD i ^^ b.getMsbD i) := by
  simp [xorBits]

theorem getMsbD_bytesToBits {m : Nat} (bytes : Vector Byte m) (i : Nat) (h : i < 8 * m) :
    (bytesToBits bytes).getMsbD i = (bytes[i / 8]'(by omega)).getLsbD (7 - i % 8) := by
  simp [bytesToBits, BitVec.getMsbD_ofFnBE, h]

theorem getMsbD_bitsToBytes {m : Nat} (v : Bits (8 * m)) (k : Nat) (hk : k < m) (j : Nat) (hj : j < 8) :
    ((bitsToBytes v)[k]).getMsbD j = v.getMsbD (8 * k + j) := by
  simp [bitsToBytes, getMsbD_slice _ _ _ _ hj]

/-- Two equally long sequences with equal elements are equal. -/
theorem bits_ext {n : Nat} {a b : Bits n} (h : ∀ i < n, a.getMsbD i = b.getMsbD i) : a = b :=
  BitVec.eq_of_getMsbD_eq h

end Sys2Proof.Machine
end

