-- ==== Sys2Proof/Laws/State.lean ====
section
/-! SUPPORT. The named updates of the state, field by field: one lemma per field per update, true by
`rfl`, so that no proof unfolds a record update. -/

namespace Sys2Proof.Machine

/-! ### `setEvent` -/

@[simp] theorem setEvent_key (e : Event) (s : State) : (setEvent e s).key = s.key := rfl
@[simp] theorem setEvent_din (e : Event) (s : State) : (setEvent e s).din = s.din := rfl
@[simp] theorem setEvent_dout (e : Event) (s : State) : (setEvent e s).dout = s.dout := rfl
@[simp] theorem setEvent_rk (e : Event) (s : State) : (setEvent e s).rk = s.rk := rfl
@[simp] theorem setEvent_c (e : Event) (s : State) : (setEvent e s).c = s.c := rfl
@[simp] theorem setEvent_d (e : Event) (s : State) : (setEvent e s).d = s.d := rfl
@[simp] theorem setEvent_l (e : Event) (s : State) : (setEvent e s).l = s.l := rfl
@[simp] theorem setEvent_r (e : Event) (s : State) : (setEvent e s).r = s.r := rfl
@[simp] theorem setEvent_dir (e : Event) (s : State) : (setEvent e s).dir = s.dir := rfl
@[simp] theorem setEvent_rnd (e : Event) (s : State) : (setEvent e s).rnd = s.rnd := rfl
@[simp] theorem setEvent_stage (e : Event) (s : State) : (setEvent e s).stage = s.stage := rfl
@[simp] theorem setEvent_kv (e : Event) (s : State) : (setEvent e s).kv = s.kv := rfl
@[simp] theorem setEvent_ov (e : Event) (s : State) : (setEvent e s).ov = s.ov := rfl
@[simp] theorem setEvent_evt (e : Event) (s : State) : (setEvent e s).evt = s.evt ||| eventMask e := rfl
@[simp] theorem setEvent_ien (e : Event) (s : State) : (setEvent e s).ien = s.ien := rfl
@[simp] theorem setEvent_prog (e : Event) (s : State) : (setEvent e s).prog = s.prog := rfl
@[simp] theorem setEvent_sched (e : Event) (s : State) : (setEvent e s).sched = s.sched := rfl
@[simp] theorem setEvent_readLog (e : Event) (s : State) : (setEvent e s).readLog = s.readLog := rfl

@[simp] theorem setEvent_busy (e : Event) (s : State) : (setEvent e s).busy = s.busy := rfl

/-! ### `raise` -/

@[simp] theorem raise_key (e : Event) (s : State) : (raise e s).key = s.key := rfl
@[simp] theorem raise_din (e : Event) (s : State) : (raise e s).din = s.din := rfl
@[simp] theorem raise_dout (e : Event) (s : State) : (raise e s).dout = s.dout := rfl
@[simp] theorem raise_rk (e : Event) (s : State) : (raise e s).rk = s.rk := rfl
@[simp] theorem raise_c (e : Event) (s : State) : (raise e s).c = s.c := rfl
@[simp] theorem raise_d (e : Event) (s : State) : (raise e s).d = s.d := rfl
@[simp] theorem raise_l (e : Event) (s : State) : (raise e s).l = s.l := rfl
@[simp] theorem raise_r (e : Event) (s : State) : (raise e s).r = s.r := rfl
@[simp] theorem raise_dir (e : Event) (s : State) : (raise e s).dir = s.dir := rfl
@[simp] theorem raise_rnd (e : Event) (s : State) : (raise e s).rnd = s.rnd := rfl
@[simp] theorem raise_stage (e : Event) (s : State) : (raise e s).stage = s.stage := rfl
@[simp] theorem raise_kv (e : Event) (s : State) : (raise e s).kv = s.kv := rfl
@[simp] theorem raise_ov (e : Event) (s : State) : (raise e s).ov = s.ov := rfl
@[simp] theorem raise_evt (e : Event) (s : State) : (raise e s).evt = s.evt ||| eventMask e := rfl
@[simp] theorem raise_ien (e : Event) (s : State) : (raise e s).ien = s.ien := rfl
@[simp] theorem raise_prog (e : Event) (s : State) : (raise e s).prog = s.prog := rfl
@[simp] theorem raise_sched (e : Event) (s : State) : (raise e s).sched = s.sched := rfl
@[simp] theorem raise_readLog (e : Event) (s : State) : (raise e s).readLog = s.readLog := rfl

@[simp] theorem raise_busy (e : Event) (s : State) : (raise e s).busy = s.busy := rfl

/-! ### `acknowledge` -/

@[simp] theorem acknowledge_key (v : Byte) (s : State) : (acknowledge v s).key = s.key := rfl
@[simp] theorem acknowledge_din (v : Byte) (s : State) : (acknowledge v s).din = s.din := rfl
@[simp] theorem acknowledge_dout (v : Byte) (s : State) : (acknowledge v s).dout = s.dout := rfl
@[simp] theorem acknowledge_rk (v : Byte) (s : State) : (acknowledge v s).rk = s.rk := rfl
@[simp] theorem acknowledge_c (v : Byte) (s : State) : (acknowledge v s).c = s.c := rfl
@[simp] theorem acknowledge_d (v : Byte) (s : State) : (acknowledge v s).d = s.d := rfl
@[simp] theorem acknowledge_l (v : Byte) (s : State) : (acknowledge v s).l = s.l := rfl
@[simp] theorem acknowledge_r (v : Byte) (s : State) : (acknowledge v s).r = s.r := rfl
@[simp] theorem acknowledge_dir (v : Byte) (s : State) : (acknowledge v s).dir = s.dir := rfl
@[simp] theorem acknowledge_rnd (v : Byte) (s : State) : (acknowledge v s).rnd = s.rnd := rfl
@[simp] theorem acknowledge_stage (v : Byte) (s : State) : (acknowledge v s).stage = s.stage := rfl
@[simp] theorem acknowledge_kv (v : Byte) (s : State) : (acknowledge v s).kv = s.kv := rfl
@[simp] theorem acknowledge_ov (v : Byte) (s : State) : (acknowledge v s).ov = s.ov := rfl
@[simp] theorem acknowledge_evt (v : Byte) (s : State) : (acknowledge v s).evt = s.evt &&& ~~~(v &&& implementedBits) := rfl
@[simp] theorem acknowledge_ien (v : Byte) (s : State) : (acknowledge v s).ien = s.ien := rfl
@[simp] theorem acknowledge_prog (v : Byte) (s : State) : (acknowledge v s).prog = s.prog := rfl
@[simp] theorem acknowledge_sched (v : Byte) (s : State) : (acknowledge v s).sched = s.sched := rfl
@[simp] theorem acknowledge_readLog (v : Byte) (s : State) : (acknowledge v s).readLog = s.readLog := rfl

@[simp] theorem acknowledge_busy (v : Byte) (s : State) : (acknowledge v s).busy = s.busy := rfl

/-! ### `writeIen` -/

@[simp] theorem writeIen_key (v : Byte) (s : State) : (writeIen v s).key = s.key := rfl
@[simp] theorem writeIen_din (v : Byte) (s : State) : (writeIen v s).din = s.din := rfl
@[simp] theorem writeIen_dout (v : Byte) (s : State) : (writeIen v s).dout = s.dout := rfl
@[simp] theorem writeIen_rk (v : Byte) (s : State) : (writeIen v s).rk = s.rk := rfl
@[simp] theorem writeIen_c (v : Byte) (s : State) : (writeIen v s).c = s.c := rfl
@[simp] theorem writeIen_d (v : Byte) (s : State) : (writeIen v s).d = s.d := rfl
@[simp] theorem writeIen_l (v : Byte) (s : State) : (writeIen v s).l = s.l := rfl
@[simp] theorem writeIen_r (v : Byte) (s : State) : (writeIen v s).r = s.r := rfl
@[simp] theorem writeIen_dir (v : Byte) (s : State) : (writeIen v s).dir = s.dir := rfl
@[simp] theorem writeIen_rnd (v : Byte) (s : State) : (writeIen v s).rnd = s.rnd := rfl
@[simp] theorem writeIen_stage (v : Byte) (s : State) : (writeIen v s).stage = s.stage := rfl
@[simp] theorem writeIen_kv (v : Byte) (s : State) : (writeIen v s).kv = s.kv := rfl
@[simp] theorem writeIen_ov (v : Byte) (s : State) : (writeIen v s).ov = s.ov := rfl
@[simp] theorem writeIen_evt (v : Byte) (s : State) : (writeIen v s).evt = s.evt := rfl
@[simp] theorem writeIen_ien (v : Byte) (s : State) : (writeIen v s).ien = v &&& implementedBits := rfl
@[simp] theorem writeIen_prog (v : Byte) (s : State) : (writeIen v s).prog = s.prog := rfl
@[simp] theorem writeIen_sched (v : Byte) (s : State) : (writeIen v s).sched = s.sched := rfl
@[simp] theorem writeIen_readLog (v : Byte) (s : State) : (writeIen v s).readLog = s.readLog := rfl

@[simp] theorem writeIen_busy (v : Byte) (s : State) : (writeIen v s).busy = s.busy := rfl

/-! ### `writeKeyByte` -/

@[simp] theorem writeKeyByte_key (k : Fin 8) (v : Byte) (s : State) : (writeKeyByte k v s).key = s.key.set k v := rfl
@[simp] theorem writeKeyByte_din (k : Fin 8) (v : Byte) (s : State) : (writeKeyByte k v s).din = s.din := rfl
@[simp] theorem writeKeyByte_dout (k : Fin 8) (v : Byte) (s : State) : (writeKeyByte k v s).dout = s.dout := rfl
@[simp] theorem writeKeyByte_rk (k : Fin 8) (v : Byte) (s : State) : (writeKeyByte k v s).rk = s.rk := rfl
@[simp] theorem writeKeyByte_c (k : Fin 8) (v : Byte) (s : State) : (writeKeyByte k v s).c = s.c := rfl
@[simp] theorem writeKeyByte_d (k : Fin 8) (v : Byte) (s : State) : (writeKeyByte k v s).d = s.d := rfl
@[simp] theorem writeKeyByte_l (k : Fin 8) (v : Byte) (s : State) : (writeKeyByte k v s).l = s.l := rfl
@[simp] theorem writeKeyByte_r (k : Fin 8) (v : Byte) (s : State) : (writeKeyByte k v s).r = s.r := rfl
@[simp] theorem writeKeyByte_dir (k : Fin 8) (v : Byte) (s : State) : (writeKeyByte k v s).dir = s.dir := rfl
@[simp] theorem writeKeyByte_rnd (k : Fin 8) (v : Byte) (s : State) : (writeKeyByte k v s).rnd = s.rnd := rfl
@[simp] theorem writeKeyByte_stage (k : Fin 8) (v : Byte) (s : State) : (writeKeyByte k v s).stage = s.stage := rfl
@[simp] theorem writeKeyByte_kv (k : Fin 8) (v : Byte) (s : State) : (writeKeyByte k v s).kv = false := rfl
@[simp] theorem writeKeyByte_ov (k : Fin 8) (v : Byte) (s : State) : (writeKeyByte k v s).ov = s.ov := rfl
@[simp] theorem writeKeyByte_evt (k : Fin 8) (v : Byte) (s : State) : (writeKeyByte k v s).evt = s.evt := rfl
@[simp] theorem writeKeyByte_ien (k : Fin 8) (v : Byte) (s : State) : (writeKeyByte k v s).ien = s.ien := rfl
@[simp] theorem writeKeyByte_prog (k : Fin 8) (v : Byte) (s : State) : (writeKeyByte k v s).prog = s.prog := rfl
@[simp] theorem writeKeyByte_sched (k : Fin 8) (v : Byte) (s : State) : (writeKeyByte k v s).sched = s.sched := rfl
@[simp] theorem writeKeyByte_readLog (k : Fin 8) (v : Byte) (s : State) : (writeKeyByte k v s).readLog = s.readLog := rfl

@[simp] theorem writeKeyByte_busy (k : Fin 8) (v : Byte) (s : State) : (writeKeyByte k v s).busy = s.busy := rfl

/-! ### `writeDinByte` -/

@[simp] theorem writeDinByte_key (k : Fin 8) (v : Byte) (s : State) : (writeDinByte k v s).key = s.key := rfl
@[simp] theorem writeDinByte_din (k : Fin 8) (v : Byte) (s : State) : (writeDinByte k v s).din = s.din.set k v := rfl
@[simp] theorem writeDinByte_dout (k : Fin 8) (v : Byte) (s : State) : (writeDinByte k v s).dout = s.dout := rfl
@[simp] theorem writeDinByte_rk (k : Fin 8) (v : Byte) (s : State) : (writeDinByte k v s).rk = s.rk := rfl
@[simp] theorem writeDinByte_c (k : Fin 8) (v : Byte) (s : State) : (writeDinByte k v s).c = s.c := rfl
@[simp] theorem writeDinByte_d (k : Fin 8) (v : Byte) (s : State) : (writeDinByte k v s).d = s.d := rfl
@[simp] theorem writeDinByte_l (k : Fin 8) (v : Byte) (s : State) : (writeDinByte k v s).l = s.l := rfl
@[simp] theorem writeDinByte_r (k : Fin 8) (v : Byte) (s : State) : (writeDinByte k v s).r = s.r := rfl
@[simp] theorem writeDinByte_dir (k : Fin 8) (v : Byte) (s : State) : (writeDinByte k v s).dir = s.dir := rfl
@[simp] theorem writeDinByte_rnd (k : Fin 8) (v : Byte) (s : State) : (writeDinByte k v s).rnd = s.rnd := rfl
@[simp] theorem writeDinByte_stage (k : Fin 8) (v : Byte) (s : State) : (writeDinByte k v s).stage = s.stage := rfl
@[simp] theorem writeDinByte_kv (k : Fin 8) (v : Byte) (s : State) : (writeDinByte k v s).kv = s.kv := rfl
@[simp] theorem writeDinByte_ov (k : Fin 8) (v : Byte) (s : State) : (writeDinByte k v s).ov = s.ov := rfl
@[simp] theorem writeDinByte_evt (k : Fin 8) (v : Byte) (s : State) : (writeDinByte k v s).evt = s.evt := rfl
@[simp] theorem writeDinByte_ien (k : Fin 8) (v : Byte) (s : State) : (writeDinByte k v s).ien = s.ien := rfl
@[simp] theorem writeDinByte_prog (k : Fin 8) (v : Byte) (s : State) : (writeDinByte k v s).prog = s.prog := rfl
@[simp] theorem writeDinByte_sched (k : Fin 8) (v : Byte) (s : State) : (writeDinByte k v s).sched = s.sched := rfl
@[simp] theorem writeDinByte_readLog (k : Fin 8) (v : Byte) (s : State) : (writeDinByte k v s).readLog = s.readLog := rfl

@[simp] theorem writeDinByte_busy (k : Fin 8) (v : Byte) (s : State) : (writeDinByte k v s).busy = s.busy := rfl

/-! ### `popTurn` -/

@[simp] theorem popTurn_key (s : State) : (popTurn s).key = s.key := rfl
@[simp] theorem popTurn_din (s : State) : (popTurn s).din = s.din := rfl
@[simp] theorem popTurn_dout (s : State) : (popTurn s).dout = s.dout := rfl
@[simp] theorem popTurn_rk (s : State) : (popTurn s).rk = s.rk := rfl
@[simp] theorem popTurn_c (s : State) : (popTurn s).c = s.c := rfl
@[simp] theorem popTurn_d (s : State) : (popTurn s).d = s.d := rfl
@[simp] theorem popTurn_l (s : State) : (popTurn s).l = s.l := rfl
@[simp] theorem popTurn_r (s : State) : (popTurn s).r = s.r := rfl
@[simp] theorem popTurn_dir (s : State) : (popTurn s).dir = s.dir := rfl
@[simp] theorem popTurn_rnd (s : State) : (popTurn s).rnd = s.rnd := rfl
@[simp] theorem popTurn_stage (s : State) : (popTurn s).stage = s.stage := rfl
@[simp] theorem popTurn_kv (s : State) : (popTurn s).kv = s.kv := rfl
@[simp] theorem popTurn_ov (s : State) : (popTurn s).ov = s.ov := rfl
@[simp] theorem popTurn_evt (s : State) : (popTurn s).evt = s.evt := rfl
@[simp] theorem popTurn_ien (s : State) : (popTurn s).ien = s.ien := rfl
@[simp] theorem popTurn_prog (s : State) : (popTurn s).prog = s.prog := rfl
@[simp] theorem popTurn_sched (s : State) : (popTurn s).sched = s.sched.tail := rfl
@[simp] theorem popTurn_readLog (s : State) : (popTurn s).readLog = s.readLog := rfl

@[simp] theorem popTurn_busy (s : State) : (popTurn s).busy = s.busy := rfl

/-! ### `logRead` -/

@[simp] theorem logRead_key (a : Offset) (b : Byte) (s : State) : (logRead a b s).key = s.key := rfl
@[simp] theorem logRead_din (a : Offset) (b : Byte) (s : State) : (logRead a b s).din = s.din := rfl
@[simp] theorem logRead_dout (a : Offset) (b : Byte) (s : State) : (logRead a b s).dout = s.dout := rfl
@[simp] theorem logRead_rk (a : Offset) (b : Byte) (s : State) : (logRead a b s).rk = s.rk := rfl
@[simp] theorem logRead_c (a : Offset) (b : Byte) (s : State) : (logRead a b s).c = s.c := rfl
@[simp] theorem logRead_d (a : Offset) (b : Byte) (s : State) : (logRead a b s).d = s.d := rfl
@[simp] theorem logRead_l (a : Offset) (b : Byte) (s : State) : (logRead a b s).l = s.l := rfl
@[simp] theorem logRead_r (a : Offset) (b : Byte) (s : State) : (logRead a b s).r = s.r := rfl
@[simp] theorem logRead_dir (a : Offset) (b : Byte) (s : State) : (logRead a b s).dir = s.dir := rfl
@[simp] theorem logRead_rnd (a : Offset) (b : Byte) (s : State) : (logRead a b s).rnd = s.rnd := rfl
@[simp] theorem logRead_stage (a : Offset) (b : Byte) (s : State) : (logRead a b s).stage = s.stage := rfl
@[simp] theorem logRead_kv (a : Offset) (b : Byte) (s : State) : (logRead a b s).kv = s.kv := rfl
@[simp] theorem logRead_ov (a : Offset) (b : Byte) (s : State) : (logRead a b s).ov = s.ov := rfl
@[simp] theorem logRead_evt (a : Offset) (b : Byte) (s : State) : (logRead a b s).evt = s.evt := rfl
@[simp] theorem logRead_ien (a : Offset) (b : Byte) (s : State) : (logRead a b s).ien = s.ien := rfl
@[simp] theorem logRead_prog (a : Offset) (b : Byte) (s : State) : (logRead a b s).prog = s.prog := rfl
@[simp] theorem logRead_sched (a : Offset) (b : Byte) (s : State) : (logRead a b s).sched = s.sched := rfl
@[simp] theorem logRead_readLog (a : Offset) (b : Byte) (s : State) : (logRead a b s).readLog = s.readLog ++ [(a, b)] := rfl

@[simp] theorem logRead_busy (a : Offset) (b : Byte) (s : State) : (logRead a b s).busy = s.busy := rfl

/-! ### `setProg` -/

@[simp] theorem setProg_key (p : List HostOp) (s : State) : (setProg p s).key = s.key := rfl
@[simp] theorem setProg_din (p : List HostOp) (s : State) : (setProg p s).din = s.din := rfl
@[simp] theorem setProg_dout (p : List HostOp) (s : State) : (setProg p s).dout = s.dout := rfl
@[simp] theorem setProg_rk (p : List HostOp) (s : State) : (setProg p s).rk = s.rk := rfl
@[simp] theorem setProg_c (p : List HostOp) (s : State) : (setProg p s).c = s.c := rfl
@[simp] theorem setProg_d (p : List HostOp) (s : State) : (setProg p s).d = s.d := rfl
@[simp] theorem setProg_l (p : List HostOp) (s : State) : (setProg p s).l = s.l := rfl
@[simp] theorem setProg_r (p : List HostOp) (s : State) : (setProg p s).r = s.r := rfl
@[simp] theorem setProg_dir (p : List HostOp) (s : State) : (setProg p s).dir = s.dir := rfl
@[simp] theorem setProg_rnd (p : List HostOp) (s : State) : (setProg p s).rnd = s.rnd := rfl
@[simp] theorem setProg_stage (p : List HostOp) (s : State) : (setProg p s).stage = s.stage := rfl
@[simp] theorem setProg_kv (p : List HostOp) (s : State) : (setProg p s).kv = s.kv := rfl
@[simp] theorem setProg_ov (p : List HostOp) (s : State) : (setProg p s).ov = s.ov := rfl
@[simp] theorem setProg_evt (p : List HostOp) (s : State) : (setProg p s).evt = s.evt := rfl
@[simp] theorem setProg_ien (p : List HostOp) (s : State) : (setProg p s).ien = s.ien := rfl
@[simp] theorem setProg_prog (p : List HostOp) (s : State) : (setProg p s).prog = p := rfl
@[simp] theorem setProg_sched (p : List HostOp) (s : State) : (setProg p s).sched = s.sched := rfl
@[simp] theorem setProg_readLog (p : List HostOp) (s : State) : (setProg p s).readLog = s.readLog := rfl

@[simp] theorem setProg_busy (p : List HostOp) (s : State) : (setProg p s).busy = s.busy := rfl

/-! ### `stageKsPc1` -/

@[simp] theorem stageKsPc1_key (t : Tables) (s : State) : (stageKsPc1 t s).key = s.key := rfl
@[simp] theorem stageKsPc1_din (t : Tables) (s : State) : (stageKsPc1 t s).din = s.din := rfl
@[simp] theorem stageKsPc1_dout (t : Tables) (s : State) : (stageKsPc1 t s).dout = s.dout := rfl
@[simp] theorem stageKsPc1_rk (t : Tables) (s : State) : (stageKsPc1 t s).rk = s.rk := rfl
@[simp] theorem stageKsPc1_c (t : Tables) (s : State) : (stageKsPc1 t s).c = (ksStart t (keyBits s)).1 := rfl
@[simp] theorem stageKsPc1_d (t : Tables) (s : State) : (stageKsPc1 t s).d = (ksStart t (keyBits s)).2 := rfl
@[simp] theorem stageKsPc1_l (t : Tables) (s : State) : (stageKsPc1 t s).l = s.l := rfl
@[simp] theorem stageKsPc1_r (t : Tables) (s : State) : (stageKsPc1 t s).r = s.r := rfl
@[simp] theorem stageKsPc1_dir (t : Tables) (s : State) : (stageKsPc1 t s).dir = s.dir := rfl
@[simp] theorem stageKsPc1_rnd (t : Tables) (s : State) : (stageKsPc1 t s).rnd = 0 := rfl
@[simp] theorem stageKsPc1_stage (t : Tables) (s : State) : (stageKsPc1 t s).stage = .ksRnd := rfl
@[simp] theorem stageKsPc1_kv (t : Tables) (s : State) : (stageKsPc1 t s).kv = s.kv := rfl
@[simp] theorem stageKsPc1_ov (t : Tables) (s : State) : (stageKsPc1 t s).ov = s.ov := rfl
@[simp] theorem stageKsPc1_evt (t : Tables) (s : State) : (stageKsPc1 t s).evt = s.evt := rfl
@[simp] theorem stageKsPc1_ien (t : Tables) (s : State) : (stageKsPc1 t s).ien = s.ien := rfl
@[simp] theorem stageKsPc1_prog (t : Tables) (s : State) : (stageKsPc1 t s).prog = s.prog := rfl
@[simp] theorem stageKsPc1_sched (t : Tables) (s : State) : (stageKsPc1 t s).sched = s.sched := rfl
@[simp] theorem stageKsPc1_readLog (t : Tables) (s : State) : (stageKsPc1 t s).readLog = s.readLog := rfl

/-! ### `stageBlkIp` -/

@[simp] theorem stageBlkIp_key (t : Tables) (s : State) : (stageBlkIp t s).key = s.key := rfl
@[simp] theorem stageBlkIp_din (t : Tables) (s : State) : (stageBlkIp t s).din = s.din := rfl
@[simp] theorem stageBlkIp_dout (t : Tables) (s : State) : (stageBlkIp t s).dout = s.dout := rfl
@[simp] theorem stageBlkIp_rk (t : Tables) (s : State) : (stageBlkIp t s).rk = s.rk := rfl
@[simp] theorem stageBlkIp_c (t : Tables) (s : State) : (stageBlkIp t s).c = s.c := rfl
@[simp] theorem stageBlkIp_d (t : Tables) (s : State) : (stageBlkIp t s).d = s.d := rfl
@[simp] theorem stageBlkIp_l (t : Tables) (s : State) : (stageBlkIp t s).l = (blkStart t (dinBits s)).1 := rfl
@[simp] theorem stageBlkIp_r (t : Tables) (s : State) : (stageBlkIp t s).r = (blkStart t (dinBits s)).2 := rfl
@[simp] theorem stageBlkIp_dir (t : Tables) (s : State) : (stageBlkIp t s).dir = s.dir := rfl
@[simp] theorem stageBlkIp_rnd (t : Tables) (s : State) : (stageBlkIp t s).rnd = 0 := rfl
@[simp] theorem stageBlkIp_stage (t : Tables) (s : State) : (stageBlkIp t s).stage = .blkRnd := rfl
@[simp] theorem stageBlkIp_kv (t : Tables) (s : State) : (stageBlkIp t s).kv = s.kv := rfl
@[simp] theorem stageBlkIp_ov (t : Tables) (s : State) : (stageBlkIp t s).ov = s.ov := rfl
@[simp] theorem stageBlkIp_evt (t : Tables) (s : State) : (stageBlkIp t s).evt = s.evt := rfl
@[simp] theorem stageBlkIp_ien (t : Tables) (s : State) : (stageBlkIp t s).ien = s.ien := rfl
@[simp] theorem stageBlkIp_prog (t : Tables) (s : State) : (stageBlkIp t s).prog = s.prog := rfl
@[simp] theorem stageBlkIp_sched (t : Tables) (s : State) : (stageBlkIp t s).sched = s.sched := rfl
@[simp] theorem stageBlkIp_readLog (t : Tables) (s : State) : (stageBlkIp t s).readLog = s.readLog := rfl

/-! ### `stageBlkFp` -/

@[simp] theorem stageBlkFp_key (t : Tables) (s : State) : (stageBlkFp t s).key = s.key := rfl
@[simp] theorem stageBlkFp_din (t : Tables) (s : State) : (stageBlkFp t s).din = s.din := rfl
@[simp] theorem stageBlkFp_dout (t : Tables) (s : State) :
    (stageBlkFp t s).dout = bitsToBytes (m := 8) (blkFinish t (s.l, s.r)) := rfl
@[simp] theorem stageBlkFp_rk (t : Tables) (s : State) : (stageBlkFp t s).rk = s.rk := rfl
@[simp] theorem stageBlkFp_c (t : Tables) (s : State) : (stageBlkFp t s).c = s.c := rfl
@[simp] theorem stageBlkFp_d (t : Tables) (s : State) : (stageBlkFp t s).d = s.d := rfl
@[simp] theorem stageBlkFp_l (t : Tables) (s : State) : (stageBlkFp t s).l = s.l := rfl
@[simp] theorem stageBlkFp_r (t : Tables) (s : State) : (stageBlkFp t s).r = s.r := rfl
@[simp] theorem stageBlkFp_dir (t : Tables) (s : State) : (stageBlkFp t s).dir = s.dir := rfl
@[simp] theorem stageBlkFp_rnd (t : Tables) (s : State) : (stageBlkFp t s).rnd = s.rnd := rfl
@[simp] theorem stageBlkFp_stage (t : Tables) (s : State) : (stageBlkFp t s).stage = .idle := rfl
@[simp] theorem stageBlkFp_kv (t : Tables) (s : State) : (stageBlkFp t s).kv = s.kv := rfl
@[simp] theorem stageBlkFp_ov (t : Tables) (s : State) : (stageBlkFp t s).ov = true := rfl
@[simp] theorem stageBlkFp_evt (t : Tables) (s : State) :
    (stageBlkFp t s).evt = s.evt ||| eventMask .bdone := rfl
@[simp] theorem stageBlkFp_ien (t : Tables) (s : State) : (stageBlkFp t s).ien = s.ien := rfl
@[simp] theorem stageBlkFp_prog (t : Tables) (s : State) : (stageBlkFp t s).prog = s.prog := rfl
@[simp] theorem stageBlkFp_sched (t : Tables) (s : State) : (stageBlkFp t s).sched = s.sched := rfl
@[simp] theorem stageBlkFp_readLog (t : Tables) (s : State) : (stageBlkFp t s).readLog = s.readLog := rfl

end Sys2Proof.Machine
end

