-- ==== Sys2Proof/Laws/Ops.lean ====
section
/-! SUPPORT. What each shared operation can do, said once: the two cases of `whenIdle`, the window map at
each register's offset, the cases of a write to `CMD`, the position after a round, and the round stages. -/

namespace Sys2Proof.Machine

theorem busy_eq_false_iff (s : State) : s.busy = false ↔ s.stage = .idle := by
  simp [State.busy]

theorem whenIdle_of_idle {f : State → State} {s : State} (h : s.busy = false) : whenIdle f s = f s := by
  simp [whenIdle, h]

theorem whenIdle_of_busy {f : State → State} {s : State} (h : s.busy = true) :
    whenIdle f s = raise .eBusy s := by
  simp [whenIdle, h]

theorem windowReg_keyOffset : ∀ k, windowReg (keyOffset k) = .key k := by decide
theorem windowReg_dinOffset : ∀ k, windowReg (dinOffset k) = .din k := by decide
theorem windowReg_doutOffset : ∀ k, windowReg (doutOffset k) = .dout k := by decide
theorem windowReg_cmdOffset : windowReg cmdOffset = .cmd := by decide
theorem windowReg_statusOffset : windowReg statusOffset = .status := by decide
theorem windowReg_evtOffset : windowReg evtOffset = .evt := by decide
theorem windowReg_ienOffset : windowReg ienOffset = .ien := by decide

theorem writeCmd_of_busy {run : Instr → State → Host.Outcome State Fault Refusal} {v : Byte} {s : State}
    (h : s.busy = true) : writeCmd run v s = .next (raise .eBusy s) := by
  simp [writeCmd, h]

theorem writeCmd_of_ok {run : Instr → State → Host.Outcome State Fault Refusal} {v : Byte} {s : State}
    {i : Instr} (h : s.busy = false) (hv : decodeCmd v = .ok i) : writeCmd run v s = run i s := by
  simp [writeCmd, h, hv]

theorem writeCmd_of_reserved {run : Instr → State → Host.Outcome State Fault Refusal} {v : Byte}
    {s : State} {e : Reject} (h : s.busy = false) (hv : decodeCmd v = .error e) :
    writeCmd run v s = .next (raise .eIllcmd s) := by
  simp [writeCmd, h, hv]

theorem advanceRound_of_lt {last : Stage} {s : State} (h : s.rnd.val < 15) :
    advanceRound last s = { s with rnd := ⟨s.rnd.val + 1, by omega⟩ } := by
  simp [advanceRound, h]

theorem advanceRound_of_last {last : Stage} {s : State} (h : s.rnd = 15) :
    advanceRound last s = { s with rnd := 0, stage := last } := by
  simp [advanceRound, h]

/-- A round of the key schedule before the last (R173). -/
theorem stageKsRnd_of_lt {t : Tables} {s : State} (h : s.rnd.val < 15) :
    stageKsRnd t s = { s with
      c := (ksRotate t s.rnd (s.c, s.d)).1, d := (ksRotate t s.rnd (s.c, s.d)).2,
      rk := s.rk.set s.rnd (ksCompress t (ksRotate t s.rnd (s.c, s.d))),
      rnd := ⟨s.rnd.val + 1, by omega⟩ } := by
  simp [stageKsRnd, advanceRound, h]

/-- The last round of the key schedule, which completes the `KEYGEN` (R173). -/
theorem stageKsRnd_of_last {t : Tables} {s : State} (h : s.rnd = 15) :
    stageKsRnd t s = { s with
      c := (ksRotate t s.rnd (s.c, s.d)).1, d := (ksRotate t s.rnd (s.c, s.d)).2,
      rk := s.rk.set s.rnd (ksCompress t (ksRotate t s.rnd (s.c, s.d))),
      rnd := 0, stage := .idle, kv := true, evt := s.evt ||| eventMask .kdone } := by
  simp [stageKsRnd, advanceRound, completeKeygen, setEvent, h]

/-- A Feistel round before the last (R204). -/
theorem stageBlkRnd_of_lt {t : Tables} {s : State} (h : s.rnd.val < 15) :
    stageBlkRnd t s = { s with
      l := s.r, r := xorBits s.l (roundF t s.r (roundKey s)), rnd := ⟨s.rnd.val + 1, by omega⟩ } := by
  simp [stageBlkRnd, feistel, advanceRound, h]

/-- The last Feistel round (R204). -/
theorem stageBlkRnd_of_last {t : Tables} {s : State} (h : s.rnd = 15) :
    stageBlkRnd t s = { s with
      l := s.r, r := xorBits s.l (roundF t s.r (roundKey s)), rnd := 0, stage := .blkFp } := by
  simp [stageBlkRnd, feistel, advanceRound, h]

theorem stageOfCode_stageCode : ∀ st, stageOfCode (stageCode st) = some st := by
  intro st; cases st <;> decide

/-- The instruction the sequencer executes is the one its stage code decodes to. -/
theorem decode_stageCode (st : Stage) : decode (.stage (stageCode st)) = .ok (stageInstr st) := by
  cases st <;> decide

end Sys2Proof.Machine
end

