-- ==== Sys2Proof/Laws/PerInstr.lean ====
section
/-! SUPPORT. Laws of the instructions as words, one lemma per constructor. -/

namespace Sys2Proof.Laws.RoundTrip

/-- The word of the instruction is well formed and decodes to the instruction (R92, R95). -/
def Statement (i : Instr) : Prop := (encode i).wf = true ∧ decode (encode i) = .ok i

theorem nop : Statement .nop := by unfold Statement; decide
theorem keygen : Statement .keygen := by unfold Statement; decide
theorem enc : Statement .enc := by unfold Statement; decide
theorem dec : Statement .dec := by unfold Statement; decide
theorem clr : Statement .clr := by unfold Statement; decide
theorem idle : Statement .idle := by unfold Statement; decide
theorem ksPc1 : Statement .ksPc1 := by unfold Statement; decide
theorem ksRnd : Statement .ksRnd := by unfold Statement; decide
theorem blkIp : Statement .blkIp := by unfold Statement; decide
theorem blkRnd : Statement .blkRnd := by unfold Statement; decide
theorem blkFp : Statement .blkFp := by unfold Statement; decide

end Sys2Proof.Laws.RoundTrip
end

