-- ==== Sys2Proof/Laws/Step.lean ====
section
/-! SUPPORT. What one step can do, said once: which agent moves, and what its turn does. The lemmas about `stepWith` hold whatever executes the instructions, so of
`step` (which is `stepWith exec`) and of `stepFor t` (which is `stepWith (execFor t)`) alike. -/

namespace Sys2Proof.Machine

theorem nextAgent_of_cons {s : State} {a : Agent} {rest : List Agent} (h : s.sched = a :: rest) :
    nextAgent s = a := by
  simp [nextAgent, h]

theorem stepWith_host {run : Instr → State → Host.Outcome State Fault Refusal} {s : State}
    (h : nextAgent s = .host) : stepWith run s = hostTurn run (popTurn s) := by
  simp [stepWith, h]

theorem stepWith_sequencer {run : Instr → State → Host.Outcome State Fault Refusal} {s : State}
    (h : nextAgent s = .sequencer) : stepWith run s = run (stageInstr s.stage) (popTurn s) := by
  simp [stepWith, h, sequencerTurn]

theorem stepWith_platform {run : Instr → State → Host.Outcome State Fault Refusal} {s : State}
    (h : nextAgent s = .platform) : stepWith run s = .next (resetCore (popTurn s)) := by
  simp [stepWith, h]

theorem step_host {s : State} (h : nextAgent s = .host) : step s = hostTurn exec (popTurn s) :=
  stepWith_host h

theorem step_sequencer {s : State} (h : nextAgent s = .sequencer) :
    step s = exec (stageInstr s.stage) (popTurn s) :=
  stepWith_sequencer h

theorem step_platform {s : State} (h : nextAgent s = .platform) :
    step s = .next (resetCore (popTurn s)) :=
  stepWith_platform h

/-- The host's four moves. -/
theorem hostTurn_nil {run : Instr → State → Host.Outcome State Fault Refusal} {s : State}
    (h : s.prog = []) : hostTurn run s = .next s := by
  simp [hostTurn, h]

theorem hostTurn_rd {run : Instr → State → Host.Outcome State Fault Refusal} {s : State} {a : Offset}
    {rest : List HostOp} (h : s.prog = .rd a :: rest) :
    hostTurn run s = .next (setProg rest (logRead a (memRead a s) s)) := by
  simp [hostTurn, h]

theorem hostTurn_wr {run : Instr → State → Host.Outcome State Fault Refusal} {s : State} {a : Offset}
    {v : Byte} {rest : List HostOp} (h : s.prog = .wr a v :: rest) :
    hostTurn run s = memWrite run a v (setProg rest s) := by
  simp [hostTurn, h]

/-- Bit 0 of `STATUS` is `BUSY` (R31). -/
theorem status_bit_zero (s : State) : s.status.getLsbD 0 = s.busy := by
  unfold State.status
  cases s.busy <;> cases s.kv <;> cases s.ov <;> cases s.errs <;> rfl

theorem memRead_statusOffset (s : State) : memRead statusOffset s = s.status := by
  simp [memRead, windowReg_statusOffset]

theorem hostTurn_wait {run : Instr → State → Host.Outcome State Fault Refusal} {s : State}
    {rest : List HostOp} (h : s.prog = .wait :: rest) :
    hostTurn run s = .next (setProg (if s.busy then s.prog else rest)
      (logRead statusOffset (memRead statusOffset s) s)) := by
  simp only [hostTurn, h, memRead_statusOffset, status_bit_zero]

/-- Every meaning answers a next state. -/
theorem exec_next (i : Instr) (s : State) : ∃ t, exec i s = .next t := by
  cases i <;> exact ⟨_, rfl⟩

/-- Every meaning answers a next state, whatever the tables. -/
theorem execFor_next (t : Tables) (i : Instr) (s : State) : ∃ u, execFor t i s = .next u := by
  cases i <;> exact ⟨_, rfl⟩

/-- A write answers a next state when every command it may execute does. -/
theorem memWrite_next {run : Instr → State → Host.Outcome State Fault Refusal}
    (hrun : ∀ i s, ∃ t, run i s = .next t) (a : Offset) (v : Byte) (s : State) :
    ∃ t, memWrite run a v s = .next t := by
  have hcmd : ∃ t, writeCmd run v s = .next t := by
    unfold writeCmd
    split
    · exact ⟨_, rfl⟩
    · split
      · exact hrun _ s
      · exact ⟨_, rfl⟩
  unfold memWrite
  split <;> first | exact hcmd | exact ⟨_, rfl⟩

/-- A command placed in an idle state is what the very next step executes, on that very state. -/
theorem step_placeCommand {s : State} {b : Byte} {i : Instr} (hs : s.busy = false)
    (hb : decodeCmd b = .ok i) : step (placeCommand b s) = exec i s := by
  have hst : s.stage = .idle := (busy_eq_false_iff s).1 hs
  have hs' : setProg s.prog (popTurn (placeCommand b s)) = s := by
    cases s; simp_all [placeCommand, setProg, popTurn]
  rw [step_host (nextAgent_of_cons rfl), hostTurn_wr (a := cmdOffset) (v := b) (rest := s.prog) rfl, hs']
  simp only [memWrite, windowReg_cmdOffset]
  exact writeCmd_of_ok hs hb

/-- A stage placed in a state is what the very next step executes. -/
theorem step_placeStage (s : State) (st : Stage) :
    step (placeStage st s) = exec (stageInstr st) { s with stage := st } := by
  rw [step_sequencer (nextAgent_of_cons rfl)]
  rfl

/-- What a byte of the command format decodes to: one of five commands, or nothing (R92, R93). -/
theorem decodeCmd_cases : ∀ v : Byte,
    (v = 0x00#8 ∧ decodeCmd v = .ok .nop) ∨ (v = 0x01#8 ∧ decodeCmd v = .ok .keygen) ∨
    (v = 0x02#8 ∧ decodeCmd v = .ok .enc) ∨ (v = 0x03#8 ∧ decodeCmd v = .ok .dec) ∨
    (v = 0x04#8 ∧ decodeCmd v = .ok .clr) ∨
    (0x05 ≤ v.toNat ∧ decodeCmd v = .error .reservedCommand) := by
  decide +kernel

/-- The register at each range of offsets. -/
theorem windowReg_cases (a : Offset) :
    (a.toNat < 0x08 ∧ windowReg a = .key (byteIndex a)) ∨
    (0x08 ≤ a.toNat ∧ a.toNat < 0x10 ∧ windowReg a = .din (byteIndex a)) ∨
    (0x10 ≤ a.toNat ∧ a.toNat < 0x18 ∧ windowReg a = .dout (byteIndex a)) ∨
    (a = 0x18#6 ∧ windowReg a = .cmd) ∨ (a = 0x19#6 ∧ windowReg a = .status) ∨
    (a = 0x1A#6 ∧ windowReg a = .evt) ∨ (a = 0x1B#6 ∧ windowReg a = .ien) ∨
    (0x1C ≤ a.toNat ∧ windowReg a = .reserved) := by
  revert a; decide +kernel

/-- What a write can do: be refused while busy, write a byte of `KEY` or `DIN`, execute a command, be a
reserved command, acknowledge, write `IEN`, or be ignored. -/
theorem memWrite_cases {run : Instr → State → Host.Outcome State Fault Refusal} {a : Offset} {v : Byte}
    {s t : State} (h : memWrite run a v s = .next t) :
    (s.busy = true ∧ (a.toNat < 0x10 ∨ a = 0x18#6) ∧ t = raise .eBusy s) ∨
    (s.busy = false ∧ a.toNat < 0x08 ∧ t = writeKeyByte (byteIndex a) v s) ∨
    (s.busy = false ∧ 0x08 ≤ a.toNat ∧ a.toNat < 0x10 ∧ t = writeDinByte (byteIndex a) v s) ∨
    (s.busy = false ∧ a = 0x18#6 ∧ ∃ i, decodeCmd v = .ok i ∧ run i s = .next t) ∨
    (s.busy = false ∧ a = 0x18#6 ∧ 0x05 ≤ v.toNat ∧ t = raise .eIllcmd s) ∨
    (a = 0x1A#6 ∧ t = acknowledge v s) ∨ (a = 0x1B#6 ∧ t = writeIen v s) ∨
    (0x10 ≤ a.toNat ∧ a ≠ 0x18#6 ∧ a ≠ 0x1A#6 ∧ a ≠ 0x1B#6 ∧ t = s) := by
  cases hb : s.busy <;>
  obtain ⟨h1, hw⟩ | ⟨h1, h2, hw⟩ | ⟨h1, h2, hw⟩ | ⟨h1, hw⟩ | ⟨h1, hw⟩ | ⟨h1, hw⟩ | ⟨h1, hw⟩ | ⟨h1, hw⟩ :=
    windowReg_cases a <;>
  simp only [memWrite, hw, whenIdle, writeCmd, hb, Bool.false_eq_true, if_true, if_false,
    Host.Outcome.next.injEq] at h
  case false.inr.inr.inr.inl =>
    obtain ⟨-, hd⟩ | ⟨-, hd⟩ | ⟨-, hd⟩ | ⟨-, hd⟩ | ⟨-, hd⟩ | ⟨h5, hd⟩ := decodeCmd_cases v <;>
      simp only [hd] at h
    case inr.inr.inr.inr.inr =>
      injection h with h
      exact .inr (.inr (.inr (.inr (.inl ⟨rfl, h1, h5, h.symm⟩))))
    all_goals exact .inr (.inr (.inr (.inl ⟨rfl, h1, _, hd, h⟩)))
  all_goals
    subst h
    first
    | (subst h1; simp)
    | (have hne : ∀ x : Offset, x.toNat ≠ a.toNat → a ≠ x := fun x hx e => hx (e ▸ rfl)
       simp [hne 0x18#6 (by simp; omega), hne 0x1A#6 (by simp; omega), hne 0x1B#6 (by simp; omega)]
       omega)

/-- What a step can do: the turn of one of the three agents. -/
theorem stepWith_cases {run : Instr → State → Host.Outcome State Fault Refusal} {s t : State}
    (h : stepWith run s = .next t) :
    (nextAgent s = .platform ∧ t = resetCore (popTurn s)) ∨
    (nextAgent s = .sequencer ∧ run (stageInstr s.stage) (popTurn s) = .next t) ∨
    (nextAgent s = .host ∧
      ((s.prog = [] ∧ t = popTurn s) ∨
       (∃ a rest, s.prog = .rd a :: rest ∧
         t = setProg rest (logRead a (memRead a (popTurn s)) (popTurn s))) ∨
       (∃ rest, s.prog = .wait :: rest ∧
         t = setProg (if s.busy then s.prog else rest)
               (logRead statusOffset (memRead statusOffset (popTurn s)) (popTurn s))) ∨
       ∃ a v rest, s.prog = .wr a v :: rest ∧ memWrite run a v (setProg rest (popTurn s)) = .next t)) := by
  cases ha : nextAgent s with
  | platform =>
    rw [stepWith_platform ha] at h; injection h with h
    exact .inl ⟨rfl, h.symm⟩
  | sequencer =>
    rw [stepWith_sequencer ha] at h
    exact .inr (.inl ⟨rfl, h⟩)
  | host =>
    rw [stepWith_host ha] at h
    refine .inr (.inr ⟨rfl, ?_⟩)
    cases hp : s.prog with
    | nil =>
      rw [hostTurn_nil (by simpa using hp)] at h; injection h with h
      exact .inl ⟨rfl, h.symm⟩
    | cons op rest =>
      cases op with
      | rd a =>
        rw [hostTurn_rd (a := a) (rest := rest) (by simpa using hp)] at h; injection h with h
        exact .inr (.inl ⟨a, rest, rfl, h.symm⟩)
      | wr a v =>
        rw [hostTurn_wr (a := a) (v := v) (rest := rest) (by simpa using hp)] at h
        exact .inr (.inr (.inr ⟨a, v, rest, rfl, h⟩))
      | wait =>
        rw [hostTurn_wait (rest := rest) (by simpa using hp)] at h; injection h with h
        refine .inr (.inr (.inl ⟨rest, rfl, ?_⟩))
        simpa [hp] using h.symm

/-- The same of the hardware's step. -/
theorem step_cases {s t : State} (h : step s = .next t) :
    (nextAgent s = .platform ∧ t = resetCore (popTurn s)) ∨
    (nextAgent s = .sequencer ∧ exec (stageInstr s.stage) (popTurn s) = .next t) ∨
    (nextAgent s = .host ∧
      ((s.prog = [] ∧ t = popTurn s) ∨
       (∃ a rest, s.prog = .rd a :: rest ∧
         t = setProg rest (logRead a (memRead a (popTurn s)) (popTurn s))) ∨
       (∃ rest, s.prog = .wait :: rest ∧
         t = setProg (if s.busy then s.prog else rest)
               (logRead statusOffset (memRead statusOffset (popTurn s)) (popTurn s))) ∨
       ∃ a v rest, s.prog = .wr a v :: rest ∧ memWrite exec a v (setProg rest (popTurn s)) = .next t)) :=
  stepWith_cases h

end Sys2Proof.Machine
end

