-- ==== Sys2Proof/Tests/Slice0.lean ====
section
/-! SUPPORT. Tests of the model on values that the spec prints (its vectors V<n> and the examples of its
rules), the refusals of the well-formedness checks, and for every obligation with hypotheses concrete data
that meets them. -/

namespace Sys2Proof.Tests

open Sys2Proof Sys2Proof.Machine Sys2Proof.Claims

-- One theorem after another: many kernel evaluations at once would each take a thread of their own.
set_option Elab.async false

/-! ### Helpers -/

/-- The outcome is a next state of which `p` holds. -/
def reached (o : Host.Outcome State Fault Refusal) (p : State → Bool) : Bool :=
  match o with
  | .next t => p t
  | .fault _ => false
  | .refused _ => false

/-- The reset state but for the sequencer's position. -/
def atStage (st : Stage) (i : Fin 16) : State := { State.reset with stage := st, rnd := i }

/-- The reset state with the host about to do `op`. -/
def hostNext (op : HostOp) (s : State) : State := { s with prog := [op], sched := [.host] }

/-- The state with the sequencer's turn next. -/
def seqNext (s : State) : State := { s with sched := [.sequencer] }

/-- The key of V21 and V31. -/
def keyV21 : Vector Byte 8 := #v[0x13#8, 0x34#8, 0x57#8, 0x79#8, 0x9B#8, 0xBC#8, 0xDF#8, 0xF1#8]

/-- The block of V31. -/
def blockV31 : Vector Byte 8 := #v[0x01#8, 0x23#8, 0x45#8, 0x67#8, 0x89#8, 0xAB#8, 0xCD#8, 0xEF#8]

/-- The output block of V31. -/
def outV31 : Vector Byte 8 := #v[0x85#8, 0xE8#8, 0x13#8, 0x54#8, 0x0F#8, 0x0A#8, 0xB4#8, 0x05#8]

/-- The last step of a `KEYGEN` of the zero key, whose halves and round keys are zero (V22). -/
def lastKsRnd : State := seqNext (atStage .ksRnd 15)

/-- The last step of an `ENC` of the zero block under the zero key (V33, row 15). -/
def lastBlk : State :=
  seqNext { atStage .blkFp 0 with kv := true, l := 0xBBEA0DC2#32, r := 0x1C2087FC#32 }

/-! ### Well-formedness refuses -/

theorem test_wf_refuses_reserved_op : (CodeWord.cmd 0b00000101#8).wf = false := by decide
theorem test_wf_refuses_zero_field : (CodeWord.cmd 0b00001000#8).wf = false ∧
    (CodeWord.cmd 0b10000010#8).wf = false := by decide
theorem test_wf_refuses_unreachable_stage : (CodeWord.stage 0b110#3).wf = false ∧
    (CodeWord.stage 0b111#3).wf = false := by decide

theorem test_wf_refuses_entry_out_of_range :
    { tbl with pc2 := tbl.pc2.set 0 57 }.rangesWf = false ∧ { tbl with pc2 := tbl.pc2.set 0 57 }.wf = false ∧
    { tbl with e := tbl.e.set 0 0 }.wf = false := by decide +kernel
theorem test_wf_refuses_fp_not_inverse :
    { tbl with fp := tbl.ip }.inverseWf = false ∧ { tbl with fp := tbl.ip }.wf = false := by
  decide +kernel
theorem test_wf_refuses_sbox_entry :
    { tbl with sbox := tbl.sbox.set 0 (tbl.sbox[0].set 0 (tbl.sbox[0][0].set 0 16)) }.sboxWf = false ∧
    { tbl with sbox := tbl.sbox.set 0 (tbl.sbox[0].set 0 (tbl.sbox[0][0].set 0 16)) }.wf = false := by
  decide +kernel
theorem test_wf_refuses_other_shift :
    { tbl with shift := tbl.shift.set 0 2 }.shiftWf = false ∧
    { tbl with shift := tbl.shift.set 0 2 }.wf = false := by decide +kernel

/-! ### Decoding: one word per constructor, written out from R92 and R95 -/

theorem test_decode_nop : decode (.cmd 0b00000000#8) = .ok .nop := by decide
theorem test_decode_keygen : decode (.cmd 0b00000001#8) = .ok .keygen := by decide
theorem test_decode_enc : decode (.cmd 0b00000010#8) = .ok .enc := by decide
theorem test_decode_dec : decode (.cmd 0b00000011#8) = .ok .dec := by decide
theorem test_decode_clr : decode (.cmd 0b00000100#8) = .ok .clr := by decide
theorem test_decode_idle : decode (.stage 0b000#3) = .ok .idle := by decide
theorem test_decode_ksPc1 : decode (.stage 0b001#3) = .ok .ksPc1 := by decide
theorem test_decode_ksRnd : decode (.stage 0b010#3) = .ok .ksRnd := by decide
theorem test_decode_blkIp : decode (.stage 0b011#3) = .ok .blkIp := by decide
theorem test_decode_blkRnd : decode (.stage 0b100#3) = .ok .blkRnd := by decide
theorem test_decode_blkFp : decode (.stage 0b101#3) = .ok .blkFp := by decide

/-- V61: the listed bytes are reserved, by name. -/
theorem test_decode_reserved :
    ∀ b ∈ [0x05#8, 0x06#8, 0x07#8, 0x08#8, 0x0A#8, 0x80#8, 0x82#8, 0xFF#8],
      decode (.cmd b) = .error .reservedCommand := by decide
/-- R93: "There are 251 reserved values." -/
theorem test_decode_counts_reserved :
    ((List.range 256).filter fun n => (decodeTableWord 8 n).isNone).length = 251 := by decide +kernel
/-- R95: no two rows of either format overlap. -/
theorem test_rows_disjoint :
    cmdRows.Pairwise (fun a b => a.pattern &&& b.mask ≠ b.pattern) ∧
    stageRows.Pairwise (fun a b => a.pattern &&& b.mask ≠ b.pattern) := by decide

theorem test_decodeTableWord :
    decodeTableWord 8 0x02 = some .enc ∧ decodeTableWord 8 0x05 = none ∧
    decodeTableWord 3 0b010 = some .ksRnd ∧ decodeTableWord 3 0b110 = none := by decide
theorem test_withFetchWord_command :
    reached (step (State.reset.withFetchWord 8 0x01)) (fun t => t.stage == .ksPc1 && t.prog == []) = true := by
  decide +kernel
theorem test_withFetchWord_stage :
    reached (step (State.reset.withFetchWord 3 0b011)) (fun t => t.stage == .blkRnd && t.sched == []) = true := by
  decide +kernel

/-! ### Commands -/

/-- V60. -/
theorem test_nop : reached (memWrite exec 0x18#6 0x00#8 State.reset) (· == State.reset) = true := by
  decide +kernel
/-- V63: `NOP` is not exempt from `E_BUSY`. -/
theorem test_nop_busy : reached (memWrite exec 0x18#6 0x00#8 (atStage .ksPc1 0))
    (fun t => t.evt == 0x40#8 && t.stage == .ksPc1) = true := by decide +kernel
/-- V24, V69: acceptance clears `KV` and starts at `(KS_PC1, 0)`. -/
theorem test_keygen : reached (memWrite exec 0x18#6 0x01#8 { State.reset with kv := true, ov := true })
    (fun t => !t.kv && t.ov && t.stage == .ksPc1 && t.rnd == 0 && t.status == 0x05#8) = true := by
  decide +kernel
/-- V62: `ENC` from reset raises `E_NOKEY` and changes nothing else. -/
theorem test_enc_nokey : reached (memWrite exec 0x18#6 0x02#8 State.reset)
    (fun t => t == { State.reset with evt := 0x20#8 } && t.status == 0x08#8) = true := by decide +kernel
/-- R200. -/
theorem test_enc : reached (memWrite exec 0x18#6 0x02#8 { State.reset with kv := true, ov := true, dir := true })
    (fun t => !t.dir && !t.ov && t.kv && t.stage == .blkIp) = true := by decide +kernel
/-- R201. -/
theorem test_dec : reached (memWrite exec 0x18#6 0x03#8 { State.reset with kv := true, ov := true })
    (fun t => t.dir && !t.ov && t.stage == .blkIp) = true := by decide +kernel
/-- V64: while an `ENC` is in progress a `DEC` raises `E_BUSY` only and `DIR` stays 0. -/
theorem test_dec_busy : reached (memWrite exec 0x18#6 0x03#8 { atStage .blkRnd 7 with kv := true })
    (fun t => t.evt == 0x40#8 && !t.dir && t.stage == .blkRnd && t.rnd == 7) = true := by decide +kernel
/-- V68: `EVT` and `IEN` survive, `STATUS` reads `0x08`, `irq` is 1. -/
theorem test_clr : reached (memWrite exec 0x18#6 0x04#8
      { State.reset with key := keyV21, din := blockV31, dout := outV31, c := 1#28, d := 1#28, l := 1#32, r := 1#32,
                         dir := true, kv := true, ov := true, evt := 0x23#8, ien := 0x03#8 })
    (fun t => t == { State.reset with evt := 0x23#8, ien := 0x03#8 } && t.status == 0x08#8 && t.irq) = true := by
  decide +kernel
/-- V63: a `CLR` while busy clears nothing. -/
theorem test_clr_busy : reached (memWrite exec 0x18#6 0x04#8 { atStage .ksRnd 3 with key := keyV21 })
    (fun t => t.key == keyV21 && t.evt == 0x40#8 && t.rnd == 3) = true := by decide +kernel

/-! ### Stages -/

/-- R219: an idle sequencer stays at `(IDLE, 0)`. -/
theorem test_idle : reached (exec .idle State.reset) (· == State.reset) = true := by decide +kernel
/-- V21: `C` and `D` after `KS_PC1`. -/
theorem test_ksPc1 : reached (exec .ksPc1 { atStage .ksPc1 0 with key := keyV21 })
    (fun t => t.c == 0xF0CCAAF#28 && t.d == 0x556678F#28 && t.stage == .ksRnd && t.rnd == 0) = true := by
  decide +kernel
/-- V21, row 0. -/
theorem test_ksRnd_first : reached (exec .ksRnd { atStage .ksRnd 0 with c := 0xF0CCAAF#28, d := 0x556678F#28 })
    (fun t => t.c == 0xE19955F#28 && t.d == 0xAACCF1E#28 && t.rk[0] == 0x1B02EFFC7072#48 && t.rk[1] == 0#48
      && t.rnd == 1 && t.stage == .ksRnd && !t.kv && t.evt == 0x00#8) = true := by decide +kernel
/-- V21, row 15. -/
theorem test_ksRnd_last : reached (exec .ksRnd { atStage .ksRnd 15 with c := 0xF866557#28, d := 0xAAB33C7#28 })
    (fun t => t.c == 0xF0CCAAF#28 && t.d == 0x556678F#28 && t.rk[15] == 0xCB3D8B0E17F5#48
      && t.rnd == 0 && t.stage == .idle && t.kv && t.evt == 0x01#8) = true := by decide +kernel
/-- V31: `L` and `R` after `BLK_IP`. -/
theorem test_blkIp : reached (exec .blkIp { atStage .blkIp 0 with din := blockV31 })
    (fun t => t.l == 0xCC00CCFF#32 && t.r == 0xF0AAF0AA#32 && t.stage == .blkRnd && t.rnd == 0) = true := by
  decide +kernel
/-- V31, row 0. -/
theorem test_blkRnd_enc : reached (exec .blkRnd { atStage .blkRnd 0 with
      l := 0xCC00CCFF#32, r := 0xF0AAF0AA#32, rk := State.reset.rk.set 0 0x1B02EFFC7072#48 })
    (fun t => t.l == 0xF0AAF0AA#32 && t.r == 0xEF4A6544#32 && t.rnd == 1 && t.stage == .blkRnd) = true := by
  decide +kernel
/-- V32, row 15: the last round of a `DEC` uses `RK[0]`. -/
theorem test_blkRnd_dec_last : reached (exec .blkRnd { atStage .blkRnd 15 with
      dir := true, l := 0xEF4A6544#32, r := 0xF0AAF0AA#32, rk := State.reset.rk.set 0 0x1B02EFFC7072#48 })
    (fun t => t.l == 0xF0AAF0AA#32 && t.r == 0xCC00CCFF#32 && t.rnd == 0 && t.stage == .blkFp) = true := by
  decide +kernel
/-- V31: `DOUT` after `BLK_FP`. -/
theorem test_blkFp : reached (exec .blkFp { atStage .blkFp 0 with l := 0x43423234#32, r := 0x0A4CD995#32 })
    (fun t => t.dout == outV31 && t.ov && t.evt == 0x02#8 && t.stage == .idle && t.l == 0x43423234#32) = true := by
  decide +kernel

/-! ### The register window -/

/-- V65: every offset reads `0x00` after reset. -/
theorem test_reset_reads_zero : ∀ a : Offset, memRead a State.reset = 0x00#8 := by decide +kernel
/-- V65: `KEY` is write-only, but it is written. -/
theorem test_key_write_only : reached (memWrite exec 0x03#6 0x5A#8 State.reset)
    (fun t => memRead 0x03#6 t == 0x00#8 && t.key[3] == 0x5A#8) = true := by decide +kernel
/-- V65. -/
theorem test_din_read_write : reached (memWrite exec 0x0A#6 0x77#8 State.reset)
    (fun t => memRead 0x0A#6 t == 0x77#8) = true := by decide +kernel
/-- V65: `DOUT`, `STATUS` and the reserved offsets ignore writes. -/
theorem test_ignored_writes : ∀ a ∈ [0x12#6, 0x19#6, 0x2C#6],
    reached (memWrite exec a 0xFF#8 State.reset) (· == State.reset) = true := by decide +kernel
/-- V63: writes of `KEY` and `DIN` while busy. -/
theorem test_busy_writes : ∀ a ∈ [0x00#6, 0x08#6],
    reached (memWrite exec a 0xAA#8 (atStage .ksPc1 0)) (· == { atStage .ksPc1 0 with evt := 0x40#8 }) = true := by
  decide +kernel
/-- V63: a reserved byte written while busy raises `E_BUSY`, not `E_ILLCMD`; V61: in an idle KFCC
`E_ILLCMD`. -/
theorem test_reserved_command :
    reached (memWrite exec 0x18#6 0xFF#8 (atStage .ksPc1 0)) (fun t => t.evt == 0x40#8) = true ∧
    reached (memWrite exec 0x18#6 0xFF#8 State.reset) (· == { State.reset with evt := 0x10#8 }) = true := by
  decide +kernel
/-- V66. -/
theorem test_ien_mask : reached (memWrite exec 0x1B#6 0xFF#8 State.reset)
    (fun t => memRead 0x1B#6 t == 0x73#8) = true := by decide +kernel
/-- V66: `irq` after the acknowledge of `BDONE`. -/
theorem test_acknowledge : reached
    (memWrite exec 0x1A#6 0x02#8 { State.reset with evt := 0x03#8, ien := 0x02#8, kv := true, ov := true })
    (fun t => t.evt == 0x01#8 && !t.irq && t.status == 0x06#8) = true := by decide +kernel
/-- V67: a write of the value that `KEY[0]` already holds clears `KV`. -/
theorem test_key_write_clears_kv : reached
    (memWrite exec 0x00#6 0x13#8 { State.reset with key := keyV21, kv := true })
    (fun t => t.key == keyV21 && t.status == 0x00#8) = true := by decide +kernel
/-- V70. -/
theorem test_reset_event : reached (step { atStage .ksRnd 4 with key := keyV21, evt := 0x40#8, sched := [.platform] })
    (· == State.reset) = true := by decide +kernel
/-- P3, run A: `WAIT` polls again while busy. -/
theorem test_wait : reached (step (hostNext .wait (atStage .ksRnd 4)))
    (fun t => t.prog == [.wait] && t.readLog == [(0x19#6, 0x01#8)]) = true ∧
    reached (step (hostNext .wait State.reset)) (fun t => t.prog == []) = true := by decide +kernel

/-! ### Functions -/

/-- V10, V11. -/
theorem test_bytes_and_bits : bytesToBits #v[0x01#8, 0x80#8] = 0b0000000110000000#16 ∧
    bitsToBytes (m := 8) 0x85E813540F0AB405#64 = outV31 := by decide +kernel
/-- V12, V13, V14. -/
theorem test_primitives : permute 0b101#3 #v[3, 1, 2, 2] = 0b1100#4 ∧
    xorBits 0x7A15557A1555#48 0x1B02EFFC7072#48 = 0x6117BA866527#48 ∧
    rotateLeft 0b1011000#7 6 = 0b0101100#7 ∧ rotateLeft 0xF0CCAAF#28 2 = 0xC332ABF#28 := by decide +kernel
/-- V16: single-bit probes of the tables. -/
theorem test_table_probes :
    permute 0x8000000000000000#64 tbl.ip = 0x0000000001000000#64 ∧
    permute 0x0000000000000001#64 tbl.fp = 0x0200000000000000#64 ∧
    permute 0x80000001#32 tbl.e = 0xC00000000003#48 ∧ permute 0x80000000#32 tbl.p = 0x00800000#32 ∧
    permute 0x8000000000000000#64 tbl.pc1 = 0x01000000000000#56 ∧
    permute 0x80000000000000#56 tbl.pc2 = 0x080000000000#48 := by decide +kernel
/-- V17. -/
theorem test_sboxes : sboxOut tbl 0 0b011011#6 = 0b0101#4 ∧ sboxOut tbl 0 0b100001#6 = 0b1111#4 ∧
    sboxOut tbl 4 0b101010#6 = 0b1101#4 ∧ sub tbl 0x000000000000#48 = 0xEFA72C4D#32 ∧
    sub tbl 0xFFFFFFFFFFFF#48 = 0xD9CE3DCB#32 ∧ sub tbl 0x6117BA866527#48 = 0x5C82B597#32 := by
  decide +kernel
/-- V19. -/
theorem test_roundF : roundF tbl 0xF0AAF0AA#32 0x1B02EFFC7072#48 = 0x234AA9BB#32 := by decide +kernel
/-- V20: first and last round key of `MyKey123`. -/
theorem test_ks : (ks tbl 0x4D794B6579313233#64)[0] = 0xF086AE09A50A#48 ∧
    (ks tbl 0x4D794B6579313233#64)[15] = 0xC1AEAEC6988A#48 := by decide +kernel
/-- V30, second row. -/
theorem test_block : block tbl 0x4E6F772069732074#64 (ks tbl 0x0123456789ABCDEF#64) = 0x3FA40E8A984D4815#64 := by
  decide +kernel
/-- R250. -/
theorem test_keyPolicy : keyPolicy [0x61#8, 0x62#8, 0x63#8] =
    #v[0x61#8, 0x62#8, 0x63#8, 0#8, 0#8, 0#8, 0#8, 0#8] := by decide +kernel
/-- V48. -/
theorem test_unpad : unpad [0x41#8, 0x42#8, 0x43#8, 5#8, 5#8, 0x99#8, 5#8, 5#8] = .ok [0x41#8, 0x42#8, 0x43#8] ∧
    unpad [0x41#8, 9#8] = .error .paddingError ∧ unpad [0x41#8, 0#8] = .error .paddingError := by decide +kernel
/-- V49. -/
theorem test_hex : hexEncode [0xED#8, 0xB4#8, 0x50#8, 0xB7#8] = "EDB450B7".toList ∧
    hexDecode "EDB450B79421F093F3".toList = .error .lengthError ∧
    hexDecode "EDB450B79421F09G".toList = .error .lengthError ∧
    hexDecode "edb450b79421f093".toList = .ok [0xED#8, 0xB4#8, 0x50#8, 0xB7#8, 0x94#8, 0x21#8, 0xF0#8, 0x93#8] := by
  decide +kernel
/-- The UTF-8 definition's own examples: U+00E9 is `C3 A9`, U+20AC `E2 82 AC`, U+1F600 `F0 9F 98 80`; an
overlong zero is invalid. -/
theorem test_utf8 : utf8Char (Char.ofNat 0xE9) = [0xC3#8, 0xA9#8] ∧
    utf8Char (Char.ofNat 0x20AC) = [0xE2#8, 0x82#8, 0xAC#8] ∧
    utf8Char (Char.ofNat 0x1F600) = [0xF0#8, 0x9F#8, 0x98#8, 0x80#8] ∧
    utf8Decode [0xC0#8, 0x80#8] = .error .decodeError ∧ utf8Decode [0xED#8, 0xA0#8, 0x80#8] = .error .decodeError := by
  decide +kernel
/-- V42: the one-byte plaintext `A` under `MyKey123`. -/
theorem test_message : encryptMessage tbl ['A'] (utf8Encode "MyKey123".toList) = "58B7E6DD8111D646".toList := by
  decide +kernel

/-! ### Witnesses: the hypotheses of every obligation are met, clause by clause -/

theorem witness_NopChangesNothing : State.reset.stage = .idle ∧ (atStage .blkFp 0).stage ≠ .idle := by decide
theorem witness_KeygenStartsKeySchedule :
    State.reset.stage = .idle ∧ (atStage .ksRnd 15).stage ≠ .idle := by decide
theorem witness_BlockCommandsStartOrRefuse :
    ({ State.reset with kv := true }.stage = .idle ∧ { State.reset with kv := true }.kv = true) ∧
    (State.reset.stage = .idle ∧ State.reset.kv = false) ∧ (atStage .blkRnd 15).stage ≠ .idle := by decide
theorem witness_ClrZeroisesAllButEvents :
    State.reset.stage = .idle ∧ (atStage .blkIp 0).stage ≠ .idle := by decide
theorem witness_IdleTurnPasses :
    nextAgent (seqNext State.reset) = .sequencer ∧ (seqNext State.reset).stage = .idle := by decide
theorem witness_KsRndRotatesAndStoresOneKey :
    (15 : Fin 16).val = (atStage .ksRnd 14).rnd.val + 1 ∧ (atStage .ksRnd 15).rnd = 15 := by decide
theorem witness_BlkRndIsOneFeistelRound :
    (14 : Fin 16).val = (if (atStage .blkRnd 14).dir then 15 - (atStage .blkRnd 14).rnd.val
      else (atStage .blkRnd 14).rnd.val) ∧ (15 : Fin 16).val = (atStage .blkRnd 14).rnd.val + 1 ∧
    (0 : Fin 16).val = (if { atStage .blkRnd 15 with dir := true }.dir
      then 15 - { atStage .blkRnd 15 with dir := true }.rnd.val
      else { atStage .blkRnd 15 with dir := true }.rnd.val) ∧
    { atStage .blkRnd 15 with dir := true }.rnd = 15 := by decide
/-- A word whose chunk 0 is `100001`: row 3, column 0. -/
theorem witness_RoundFunctionElementwise : tbl.wf = true ∧
    (3 : Fin 4).val = 2 * ((0x840000000000#48).getMsbD (6 * 0)).toNat
      + ((0x840000000000#48).getMsbD (6 * 0 + 5)).toNat ∧
    (0 : Fin 16).val = 8 * ((0x840000000000#48).getMsbD (6 * 0 + 1)).toNat
      + 4 * ((0x840000000000#48).getMsbD (6 * 0 + 2)).toNat
      + 2 * ((0x840000000000#48).getMsbD (6 * 0 + 3)).toNat
      + ((0x840000000000#48).getMsbD (6 * 0 + 4)).toNat := by decide +kernel
theorem witness_SixteenRotationsRestoreHalves : tbl.shiftWf = true := by decide
/-- `MyKey123` and `LyKey123` (V23). -/
theorem witness_DiscardedKeyBitsAreIgnored :
    (∀ i : Fin 56, (0x4D794B6579313233#64).getMsbD (tbl.pc1[i] - 1) = (0x4C794B6579313233#64).getMsbD (tbl.pc1[i] - 1)) ∧
    0x4D794B6579313233#64 &&& 0xFEFEFEFEFEFEFEFE#64 = 0x4C794B6579313233#64 &&& 0xFEFEFEFEFEFEFEFE#64 := by
  decide +kernel
/-- `WF(TBL)`, the hypothesis of every law of the cipher. -/
theorem witness_admissible_tables : tbl.wf = true := by decide +kernel
theorem witness_PermutationLaws :
    Tables.inRange 3 #v[3, 1, 2, 2] = true ∧ Tables.inRange 64 tbl.ip = true ∧ Tables.inRange 64 tbl.fp = true ∧
    (∀ p, 1 ≤ p → p ≤ 64 → Tables.entry tbl.fp (Tables.entry tbl.ip p) = p) ∧ 27 < 28 := by
  refine ⟨by decide, by decide +kernel, by decide +kernel, ?_, by decide⟩
  have h : ∀ p : Fin 64, Tables.entry tbl.fp (Tables.entry tbl.ip (p.val + 1)) = p.val + 1 := by decide +kernel
  intro p h1 h2
  have := h ⟨p - 1, by omega⟩
  simpa [Nat.sub_add_cancel h1] using this
theorem witness_RotationsMoveTheFrontToTheBackAndAdd :
    1 < 28 ∧ 26 < 28 - 1 ∧ 0 < 1 ∧ 27 < 28 := by decide
/-- The bounds of each range of offsets. -/
theorem witness_ReadsReturnTheRegisterAndChangeNothing :
    (0x07#6).toNat < 0x08 ∧ (0x08#6).toNat = 0x08 + (0 : Fin 8).val ∧ (0x0F#6).toNat = 0x08 + (7 : Fin 8).val ∧
    (0x10#6).toNat = 0x10 + (0 : Fin 8).val ∧ (0x17#6).toNat = 0x10 + (7 : Fin 8).val ∧
    (0x18#6).toNat = 0x18 ∧ (0x19#6).toNat = 0x19 ∧ (0x1A#6).toNat = 0x1A ∧ (0x1B#6).toNat = 0x1B ∧
    0x1C ≤ (0x1C#6).toNat ∧ 0x1C ≤ (0x3F#6).toNat ∧
    nextAgent (hostNext (.rd 0x3F#6) State.reset) = .host ∧
    (hostNext (.rd 0x3F#6) State.reset).prog = [.rd 0x3F#6] := by decide
theorem witness_WritesActByOffset :
    (0x07#6).toNat = (7 : Fin 8).val ∧ (0x08#6).toNat = 0x08 + (0 : Fin 8).val ∧
    0x10 ≤ (0x10#6).toNat ∧ (0x17#6).toNat < 0x18 ∧ (0x18#6).toNat = 0x18 ∧ (0x19#6).toNat = 0x19 ∧
    (0x1A#6).toNat = 0x1A ∧ (0x1B#6).toNat = 0x1B ∧ 0x1C ≤ (0x1C#6).toNat := by decide
theorem witness_IrqIsPendingAndEnabled :
    State.reset.evt = (atStage .blkFp 0).evt ∧ State.reset.ien = (atStage .blkFp 0).ien ∧
    State.reset ≠ atStage .blkFp 0 := by decide +kernel
theorem witness_RaisingSetsOneBitAndNothingElse :
    (Event.eIllcmd = .eIllcmd ∧ 4 = 4) ∧ (Event.eNokey = .eNokey ∧ 5 = 5) ∧ (Event.eBusy = .eBusy ∧ 6 = 6) ∧
    { State.reset with ien := 0x40#8 }.ien.getLsbD 6 = true := by decide
theorem witness_BusyWritesAreRefused :
    ((atStage .ksPc1 0).stage ≠ .idle ∧ (0x0F#6).toNat < 0x10 ∧ (0x18#6).toNat = 0x18) ∧
    (0x10 ≤ (0x10#6).toNat ∧ (0x10#6).toNat ≠ 0x18) ∧ (0x10 ≤ (0x19#6).toNat ∧ (0x19#6).toNat ≠ 0x18) ∧
    nextAgent (hostNext (.rd 0x00#6) (atStage .ksPc1 0)) = .host ∧
    (hostNext (.rd 0x00#6) (atStage .ksPc1 0)).prog = [.rd 0x00#6] := by decide
theorem witness_ReservedCommandsAreRefused :
    State.reset.stage = .idle ∧ 0x05 ≤ (0x05#8).toNat ∧ 0x05 ≤ (0xFF#8).toNat := by decide
/-- One write for each of the three errors. -/
theorem witness_OneWriteRaisesAtMostOneError :
    reached (memWrite exec 0x18#6 0xFF#8 (atStage .ksPc1 0)) (fun t => t.evt.getLsbD 6) = true ∧
    reached (memWrite exec 0x18#6 0x05#8 State.reset) (fun t => t.evt.getLsbD 4) = true ∧
    reached (memWrite exec 0x18#6 0x03#8 State.reset) (fun t => t.evt.getLsbD 5) = true ∧
    State.reset.evt = 0x00#8 ∧ (atStage .ksPc1 0).evt = 0x00#8 := by decide +kernel
theorem witness_ResetEventAbandonsEverything :
    nextAgent { atStage .ksRnd 4 with sched := [.platform] } = .platform := by decide
theorem witness_StepRunsTheDecodedInstruction :
    (nextAgent (seqNext (atStage .blkIp 0)) = .sequencer ∧
      decode (.stage (stageCode (seqNext (atStage .blkIp 0)).stage)) = .ok .blkIp) ∧
    nextAgent (hostNext (.wr 0x18#6 0x04#8) State.reset) = .host ∧
    (hostNext (.wr 0x18#6 0x04#8) State.reset).prog = [.wr 0x18#6 0x04#8] ∧
    (hostNext (.wr 0x18#6 0x04#8) State.reset).stage = .idle ∧ decode (.cmd 0x04#8) = .ok .clr := by decide
theorem witness_HostTurnsFollowTheProgram :
    (seqNext State.reset).sched = [.sequencer] ∧ State.reset.sched = [] ∧ State.reset.prog = [] ∧
    nextAgent State.reset = .host ∧ nextAgent (atStage .ksRnd 3) = .sequencer ∧
    nextAgent (hostNext .wait (atStage .ksRnd 3)) = .host ∧
    (hostNext .wait (atStage .ksRnd 3)).prog = [.wait] ∧
    (hostNext (.wr 0x3F#6 0xFF#8) State.reset).prog = [.wr 0x3F#6 0xFF#8] := by decide

/-- The last state of a `KEYGEN` meets the invariant. -/
theorem lastKsRnd_inv : Inv tbl lastKsRnd where
  rnd_zero := by decide
  keygen_kv := by decide
  block_kv_ov := by decide
  evt_reserved := by decide
  ien_reserved := by decide
  kv_rk := by decide
  ks_progress := by decide +kernel
  blk_progress := by decide
  blk_last := by decide
/-- The last state of an `ENC` (V33) meets the invariant. -/
theorem lastBlk_inv : Inv tbl lastBlk where
  rnd_zero := by decide
  keygen_kv := by decide
  block_kv_ov := by decide
  evt_reserved := by decide
  ien_reserved := by decide
  kv_rk := by decide +kernel
  ks_progress := by decide
  blk_progress := by decide
  blk_last := by decide +kernel

theorem witness_EveryStepKeepsTheInvariant : Inv tbl lastKsRnd ∧ (∃ u, step lastKsRnd = .next u) ∧
    ∃ u, stepFor tbl lastKsRnd = .next u :=
  ⟨lastKsRnd_inv, ⟨_, rfl⟩, _, rfl⟩
theorem witness_HardwareIsTheMachineAtItsTables :
    Instr.clr ∈ [Instr.nop, .keygen, .enc, .dec, .clr, .idle] := by decide
theorem witness_StagesReadTheTablesTheyAreGiven :
    (15 : Fin 16).val = (atStage .ksRnd 14).rnd.val + 1 ∧ (atStage .ksRnd 15).rnd = 15 ∧
    (15 : Fin 16).val = (atStage .blkRnd 14).rnd.val + 1 ∧ (atStage .blkRnd 15).rnd = 15 := by decide
/-- The step relation follows the tables it is given: with `FP` for `IP` a stage `BLK_IP` gives `FP` of the
block (V16). -/
theorem test_step_reads_the_given_tables :
    reached (stepFor { tbl with ip := tbl.fp } (seqNext { atStage .blkIp 0 with din := #v[0, 0, 0, 0, 0, 0, 0, 1] }))
      (fun t => t.l == 0x02000000#32 && t.r == 0#32) = true := by decide +kernel
theorem witness_CompletionPublishesTheResult :
    (Inv tbl lastKsRnd ∧ nextAgent lastKsRnd = .sequencer ∧ lastKsRnd.busy = true ∧
      keygenStage lastKsRnd.stage = true ∧ ∃ t, step lastKsRnd = .next t ∧ State.busy t = false) ∧
    (Inv tbl lastBlk ∧ nextAgent lastBlk = .sequencer ∧ lastBlk.busy = true ∧
      blockStage lastBlk.stage = true ∧ ∃ t, step lastBlk = .next t ∧ State.busy t = false) :=
  ⟨⟨lastKsRnd_inv, by decide, by decide, by decide, _, rfl, rfl⟩,
   ⟨lastBlk_inv, by decide, by decide, by decide, _, rfl, rfl⟩⟩
/-- Idle, round, host, command, refused and reset steps. -/
theorem witness_PositionFollowsTheTransitionTable :
    (State.reset.rnd ≠ 0 → State.reset.stage = .ksRnd ∨ State.reset.stage = .blkRnd) ∧
    ((atStage .blkRnd 15).rnd ≠ 0 ∧ (atStage .blkRnd 15).stage = .blkRnd) ∧
    reached (step (seqNext (atStage .blkFp 0))) (fun t => t.stage == .idle && t.rnd == 0) = true ∧ nextAgent (seqNext (atStage .blkRnd 15)) = .sequencer ∧
    nextAgent { atStage .blkRnd 15 with sched := [.platform] } = .platform ∧
    (nextAgent (hostNext .wait (atStage .blkRnd 15)) = .host ∧ (hostNext .wait (atStage .blkRnd 15)).stage ≠ .idle) ∧
    idleCommand (hostNext (.wr 0x18#6 0x01#8) State.reset) 0x01#8 ∧
    (idleCommand (hostNext (.wr 0x18#6 0x02#8) { State.reset with kv := true }) 0x02#8 ∧
      (hostNext (.wr 0x18#6 0x02#8) { State.reset with kv := true }).kv = true) ∧
    (nextAgent (hostNext (.wr 0x18#6 0x02#8) State.reset) = .host ∧
      (hostNext (.wr 0x18#6 0x02#8) State.reset).stage = .idle ∧
      ¬ idleCommand (hostNext (.wr 0x18#6 0x02#8) State.reset) 0x01#8 ∧
      (hostNext (.wr 0x18#6 0x02#8) State.reset).kv = false) :=
  ⟨by decide, by decide, by decide +kernel, by decide, by decide, by decide, ⟨rfl, rfl, [], rfl⟩, ⟨⟨rfl, rfl, [], rfl⟩, rfl⟩, rfl, rfl,
   by rintro ⟨-, -, rest, h⟩; simp [hostNext] at h, rfl⟩
theorem witness_CommandsAreSilentUntilTheyComplete :
    nextAgent (seqNext (atStage .blkRnd 15)) = .sequencer ∧
    reached (step (seqNext (atStage .blkRnd 15))) (fun t => t.busy) = true := by decide +kernel
/-- A step that changes each register (and is not a clearing one, except where nothing else can). -/
theorem witness_WhoChangesEachRegister :
    reached (step (hostNext (.wr 0x07#6 0xFF#8) State.reset)) (fun t => t.key != State.reset.key) = true ∧
    reached (step (hostNext (.wr 0x0F#6 0xFF#8) State.reset)) (fun t => t.din != State.reset.din) = true ∧
    reached (step lastBlk) (fun t => t.dout != State.reset.dout) = true ∧
    reached (step (seqNext { atStage .ksRnd 0 with c := 0xF0CCAAF#28 }))
      (fun t => t.rk != State.reset.rk && t.c != 0xF0CCAAF#28) = true ∧
    reached (step (seqNext { atStage .blkIp 0 with din := blockV31 })) (fun t => t.l != State.reset.l) = true ∧
    reached (step (hostNext (.wr 0x18#6 0x03#8) { State.reset with kv := true })) (fun t => t.dir) = true := by
  decide +kernel
theorem witness_WhenKvAndOvChange :
    (lastKsRnd.kv = false ∧ reached (step lastKsRnd) (fun t => t.kv) = true) ∧
    ((hostNext (.wr 0x00#6 0x00#8) { State.reset with kv := true }).kv = true ∧
      reached (step (hostNext (.wr 0x00#6 0x00#8) { State.reset with kv := true })) (fun t => !t.kv) = true) ∧
    (lastBlk.ov = false ∧ reached (step lastBlk) (fun t => t.ov) = true) ∧
    ((hostNext (.wr 0x18#6 0x02#8) { State.reset with kv := true, ov := true }).ov = true ∧
      reached (step (hostNext (.wr 0x18#6 0x02#8) { State.reset with kv := true, ov := true }))
        (fun t => !t.ov) = true) := by decide +kernel
theorem witness_EventBitsAreSticky :
    reached (step (hostNext (.wr 0x1A#6 0x40#8) { State.reset with evt := 0x41#8 }))
      (fun t => t.evt.getLsbD 0 && !t.evt.getLsbD 6) = true ∧
    reached (step (hostNext (.wr 0x1B#6 0xFF#8) State.reset)) (fun t => t.ien != 0x00#8) = true := by
  decide +kernel
/-- Two states with different keys and round keys, at a step that is no `BLK_FP`. -/
theorem witness_KeyMaterialReachesTheHostOnlyThroughBlkFp :
    sameButSecrets (seqNext (atStage .blkRnd 15)) { seqNext (atStage .blkRnd 15) with key := keyV21, l := 1#32 } ∧
    seqNext (atStage .blkRnd 15) ≠ { seqNext (atStage .blkRnd 15) with key := keyV21, l := 1#32 } ∧
    ¬ sequencerIn (seqNext (atStage .blkRnd 15)) .blkFp ∧ ∃ t, step (seqNext (atStage .blkRnd 15)) = .next t :=
  ⟨rfl, by decide +kernel, by simp [sequencerIn, seqNext, atStage], _, rfl⟩
/-- A host read falls between the steps of the key schedule. -/
theorem witness_KeygenComputesTheKeySchedule :
    tbl.wf = true ∧ ∃ (s : State) (rest : List HostOp) (turns : List Agent),
      s.stage = .idle ∧ s.prog = .wr 0x18#6 0x01#8 :: rest ∧
      s.sched = .host :: (turns ++ [.sequencer]) ∧ .platform ∉ turns ∧ turns.count .sequencer = 16 :=
  ⟨witness_admissible_tables,
   { State.reset with key := keyV21, prog := [.wr 0x18#6 0x01#8, .rd 0x19#6],
                      sched := .host :: ((.host :: List.replicate 16 .sequencer) ++ [.sequencer]) },
   [.rd 0x19#6], .host :: List.replicate 16 .sequencer, by decide⟩
theorem witness_BlockCommandsComputeTheBlockFunction :
    ∃ (s : State) (rest : List HostOp) (turns : List Agent), s.stage = .idle ∧ s.kv = true ∧
      s.prog = .wr 0x18#6 (if true then 0x03#8 else 0x02#8) :: rest ∧
      s.sched = .host :: (turns ++ [.sequencer]) ∧ .platform ∉ turns ∧ turns.count .sequencer = 17 :=
  ⟨{ State.reset with kv := true, din := blockV31, prog := [.wr 0x18#6 0x03#8, .wait],
                      sched := .host :: ((.host :: List.replicate 17 .sequencer) ++ [.sequencer]) },
   [.wait], .host :: List.replicate 17 .sequencer, by decide⟩
theorem witness_DecodeAndEncodeAgree : decode (.stage 0b101#3) = .ok .blkFp := by decide
theorem witness_KeyPolicyPadsOrTruncates :
    (List.replicate 7 (0x61#8)).length < 8 ∧ 8 ≤ (List.replicate 8 (0x61#8)).length := by decide
theorem witness_UnpadUndoesPad :
    ((0x00#8).toNat < 1) ∧ 8 < (0x09#8).toNat ∧ ([] : List Byte).length + 1 < (0x02#8).toNat ∧
    (1 ≤ (0x08#8).toNat ∧ (0x08#8).toNat ≤ 8 ∧ (0x08#8).toNat ≤ (List.replicate 7 (0x41#8)).length + 1) := by
  decide
theorem witness_HexEncodesAndDecodes :
    [0xED#8][0]? = some 0xED#8 ∧ (List.replicate 8 (0xED#8)).length % 8 = 0 ∧
    (∃ c ∈ ['G'], c ∉ upperDigits ++ lowerDigits) ∧ ['A'].length % 16 ≠ 0 :=
  ⟨rfl, rfl, ⟨'G', by simp, by simp [upperDigits, lowerDigits]⟩, by decide⟩
theorem witness_BlocksAreIndependent : (List.replicate 8 (0x41#8)).length % 8 = 0 := by decide
theorem witness_DriverReadsTheCipherBlocks :
    ∃ s : State, s.stage = .idle ∧ noReset s ∧
      s.prog = messageOps (if true then .dec else .enc) keyV21 [blockV31, outV31] true :=
  ⟨{ State.reset with prog := messageOps .dec keyV21 [blockV31, outV31] true, sched := [.sequencer, .host] },
   rfl, by simp [noReset], rfl⟩

end Sys2Proof.Tests
end

section
/-! PROOFS. The hardware is the machine whose step relation is given the tables `tbl` (R9, R37, R150):
first one instruction, then one step, then every run. -/

namespace Sys2Proof.Machine

/-- The stages of this hardware are the stages at `tbl`, and the commands are the same on both sides. -/
theorem exec_eq_execFor_tbl : exec = execFor tbl := by
  funext i s
  cases i <;> rfl

/-- A step depends on the tables through the meanings it executes only. -/
theorem step_eq_stepFor_tbl : step = stepFor tbl :=
  calc step = stepWith exec := rfl
    _ = stepWith (execFor tbl) := by rw [exec_eq_execFor_tbl]
    _ = stepFor tbl := rfl

/-- A run depends on the step relation only, and not on the state after reset. -/
theorem run_eq_of_step_eq {σ φ ρ : Type} {f g : σ → Host.Outcome σ φ ρ} (r r' : σ)
    (hfg : ∀ s, f s = g s) (n : Nat) (s : σ) :
    Host.Core.run ⟨σ, φ, ρ, f, r⟩ n s = Host.Core.run ⟨σ, φ, ρ, g, r'⟩ n s := by
  induction n generalizing s with
  | zero => rfl
  | succ n ih =>
    simp only [Host.Core.run, hfg]
    cases g s with
    | next u => exact ih u
    | fault e => rfl
    | refused e => rfl

theorem core_run_eq_coreFor_tbl_run (n : Nat) (s : State) : core.run n s = (coreFor tbl).run n s :=
  run_eq_of_step_eq State.reset State.reset (congrFun step_eq_stepFor_tbl) n s

/-- Only the five stages that do cipher work read the tables: the commands and `IDLE` do not (R74, R96). -/
theorem execFor_eq_execFor_of_command_or_idle (t t' : Tables) {i : Instr} (s : State)
    (hi : i ∈ [.nop, .keygen, .enc, .dec, .clr, .idle]) : execFor t i s = execFor t' i s := by
  simp only [List.mem_cons, List.not_mem_nil, or_false] at hi
  obtain rfl | rfl | rfl | rfl | rfl | rfl := hi <;> rfl

/-- Settles O54, from one instruction (`exec_eq_execFor_tbl`) to a step and to every run. -/
theorem hardwareIsTheMachineAtItsTables : Obligations.HardwareIsTheMachineAtItsTables :=
  ⟨fun i s => congrFun (congrFun exec_eq_execFor_tbl i) s,
   congrFun step_eq_stepFor_tbl,
   core_run_eq_coreFor_tbl_run,
   fun t t' _ s hi => execFor_eq_execFor_of_command_or_idle t t' s hi⟩

end Sys2Proof.Machine
end

section
/-! PROOFS. What one step does to the registers of the KFCC, said once for the machine with any tables: the
cases of 10_state.md (who writes each register, R20 to R34) as the constructors of `StepEffect`, which
`stepFor_effect` ties to the step relation. The lemmas on the state below are proved by cases on it. -/

namespace Sys2Proof.Machine

open Sys2Proof.Claims

/-- `s` with another host program, schedule and read log. The registers of the KFCC are those of `s`. -/
def withHostSide (p : List HostOp) (q : List Agent) (lg : List (Offset × Byte)) (s : State) : State :=
  { s with prog := p, sched := q, readLog := lg }

/-- `StepEffect t s b u`: a step from `s` with the tables `t` may end in `u`, where `b` is `s` after the
bookkeeping on the host's side, which is no register of the KFCC. -/
inductive StepEffect (t : Tables) (s b : State) : State → Prop
  /-- Reads, ignored writes, `NOP`, and turns with nothing to do. -/
  | unchanged : StepEffect t s b b
  /-- A refused write (R281). -/
  | refused (e : Event) : StepEffect t s b (raise e b)
  | keyWrite (k : Fin 8) (v : Byte) (h : idleKeyWrite s) : StepEffect t s b (writeKeyByte k v b)
  | dinWrite (k : Fin 8) (v : Byte) (h : idleDinWrite s) : StepEffect t s b (writeDinByte k v b)
  | evtWrite (v : Byte) (h : hostDoes s (.wr 0x1A#6 v)) : StepEffect t s b (acknowledge v b)
  | ienWrite (v : Byte) (h : hostDoes s (.wr 0x1B#6 v)) : StepEffect t s b (writeIen v b)
  | keygen (h : idleCommand s 0x01#8) : StepEffect t s b { b with kv := false, stage := .ksPc1 }
  | block (dir : Bool) (h : idleCommand s 0x02#8 ∨ idleCommand s 0x03#8) (hkv : s.kv = true) :
      StepEffect t s b { b with dir := dir, ov := false, stage := .blkIp }
  | clr (h : idleCommand s 0x04#8) : StepEffect t s b (zeroise b)
  | reset (h : resets s) : StepEffect t s b (resetCore b)
  | ksPc1 (h : sequencerIn s .ksPc1) : StepEffect t s b (stageKsPc1 t b)
  /-- A round of the key schedule before the last. -/
  | ksRound (h : sequencerIn s .ksRnd) (n : Fin 16) (hn : n.val = s.rnd.val + 1) :
      StepEffect t s b { b with
        c := (ksRotate t b.rnd (b.c, b.d)).1, d := (ksRotate t b.rnd (b.c, b.d)).2,
        rk := b.rk.set b.rnd (ksCompress t (ksRotate t b.rnd (b.c, b.d))), rnd := n }
  /-- The last round of the key schedule. -/
  | ksLast (h : sequencerIn s .ksRnd) (hr : s.rnd = 15) :
      StepEffect t s b { b with
        c := (ksRotate t b.rnd (b.c, b.d)).1, d := (ksRotate t b.rnd (b.c, b.d)).2,
        rk := b.rk.set b.rnd (ksCompress t (ksRotate t b.rnd (b.c, b.d))),
        rnd := 0, stage := .idle, kv := true, evt := b.evt ||| eventMask .kdone }
  | blkIp (h : sequencerIn s .blkIp) : StepEffect t s b (stageBlkIp t b)
  /-- A Feistel round before the last. -/
  | blkRound (h : sequencerIn s .blkRnd) (n : Fin 16) (hn : n.val = s.rnd.val + 1) :
      StepEffect t s b { b with l := b.r, r := xorBits b.l (roundF t b.r (roundKey b)), rnd := n }
  /-- The last Feistel round. -/
  | blkLast (h : sequencerIn s .blkRnd) (hr : s.rnd = 15) :
      StepEffect t s b { b with
        l := b.r, r := xorBits b.l (roundF t b.r (roundKey b)), rnd := 0, stage := .blkFp }
  | blkFp (h : sequencerIn s .blkFp) : StepEffect t s b (stageBlkFp t b)

section
variable {t : Tables} {s u : State} {p : List HostOp} {q : List Agent} {lg : List (Offset × Byte)}

/-- A round number is 15 or has a successor (R28). -/
theorem rnd_eq_last_or_lt (i : Fin 16) : i = 15 ∨ i.val < 15 := by omega

/-- The sequencer's turn: one stage, or nothing in `IDLE` (R219). -/
theorem sequencerTurn_effect (ha : nextAgent s = .sequencer)
    (hu : execFor t (stageInstr s.stage) (withHostSide p q lg s) = .next u) :
    StepEffect t s (withHostSide p q lg s) u := by
  cases hs : s.stage <;> rw [hs] at hu <;> injection hu with hu <;> subst hu
  case idle => exact .unchanged
  case ksPc1 => exact .ksPc1 ⟨ha, hs⟩
  case ksRnd =>
    obtain hr | hr := rnd_eq_last_or_lt s.rnd
    · rw [stageKsRnd_of_last (s := withHostSide p q lg s) hr]; exact .ksLast ⟨ha, hs⟩ hr
    · rw [stageKsRnd_of_lt (s := withHostSide p q lg s) hr]; exact .ksRound ⟨ha, hs⟩ _ rfl
  case blkIp => exact .blkIp ⟨ha, hs⟩
  case blkRnd =>
    obtain hr | hr := rnd_eq_last_or_lt s.rnd
    · rw [stageBlkRnd_of_last (s := withHostSide p q lg s) hr]; exact .blkLast ⟨ha, hs⟩ hr
    · rw [stageBlkRnd_of_lt (s := withHostSide p q lg s) hr]; exact .blkRound ⟨ha, hs⟩ _ rfl
  case blkFp => exact .blkFp ⟨ha, hs⟩

/-- A block command with a valid key is accepted (R200, R201). -/
theorem startBlock_of_kv {dir : Bool} (hkv : s.kv = true) :
    startBlock dir s = { s with dir := dir, ov := false, stage := .blkIp } := by
  simp [startBlock, hkv]

/-- A block command without one is refused (R284). -/
theorem startBlock_of_not_kv {dir : Bool} (hkv : s.kv = false) : startBlock dir s = raise .eNokey s := by
  simp [startBlock, hkv]

/-- `ENC` and `DEC` in an idle state: accepted with a valid key, else refused (R200, R201). -/
theorem startBlock_effect (dir : Bool) (h : idleCommand s 0x02#8 ∨ idleCommand s 0x03#8) :
    StepEffect t s (withHostSide p q lg s) (startBlock dir (withHostSide p q lg s)) := by
  cases hkv : s.kv with
  | true => rw [startBlock_of_kv (by exact hkv)]; exact .block dir h hkv
  | false => rw [startBlock_of_not_kv (by exact hkv)]; exact .refused .eNokey

/-- A command byte that decodes, written to `CMD` of an idle KFCC (R92). -/
theorem command_effect {v : Byte} {i : Instr} (h : idleCommand s v) (hv : decodeCmd v = .ok i)
    (hu : execFor t i (withHostSide p q lg s) = .next u) :
    StepEffect t s (withHostSide p q lg s) u := by
  have hb : (withHostSide p q lg s).busy = false := (busy_eq_false_iff _).2 h.1
  obtain ⟨rfl, hd⟩ | ⟨rfl, hd⟩ | ⟨rfl, hd⟩ | ⟨rfl, hd⟩ | ⟨rfl, hd⟩ | ⟨-, hd⟩ := decodeCmd_cases v <;>
    rw [hd] at hv <;> cases hv <;> injection hu with hu <;> rw [whenIdle_of_idle hb] at hu <;> subst hu
  · exact .unchanged
  · exact .keygen h
  · exact startBlock_effect false (.inl h)
  · exact startBlock_effect true (.inr h)
  · exact .clr h

/-- A host write, by the table of R64. -/
theorem write_effect {a : Offset} {v : Byte} (h : hostDoes s (.wr a v))
    (hu : memWrite (execFor t) a v (withHostSide p q lg s) = .next u) :
    StepEffect t s (withHostSide p q lg s) u := by
  have hidle : (withHostSide p q lg s).busy = false → s.stage = .idle := (busy_eq_false_iff s).1
  obtain ⟨-, -, rfl⟩ | ⟨hb, ha, rfl⟩ | ⟨hb, ha, ha', rfl⟩ | ⟨hb, rfl, i, hv, hi⟩ | ⟨-, -, -, rfl⟩ |
    ⟨rfl, rfl⟩ | ⟨rfl, rfl⟩ | ⟨-, -, -, -, rfl⟩ := memWrite_cases hu
  · exact .refused .eBusy
  · exact .keyWrite _ v ⟨hidle hb, a, v, ha, h⟩
  · exact .dinWrite _ v ⟨hidle hb, a, v, ha, ha', h⟩
  · exact command_effect ⟨hidle hb, h⟩ hv hi
  · exact .refused .eIllcmd
  · exact .evtWrite v h
  · exact .ienWrite v h
  · exact .unchanged

/-- Every step is one of the cases of `StepEffect`. -/
theorem stepFor_effect (h : stepFor t s = .next u) :
    ∃ p q lg, StepEffect t s (withHostSide p q lg s) u := by
  obtain ⟨ha, rfl⟩ | ⟨ha, hu⟩ | ⟨ha, ⟨-, rfl⟩ | ⟨a, rest, -, rfl⟩ | ⟨rest, -, rfl⟩ | ⟨a, v, rest, hp, hu⟩⟩ :=
    stepWith_cases h
  · exact ⟨s.prog, s.sched.tail, s.readLog, .reset ha⟩
  · exact ⟨s.prog, s.sched.tail, s.readLog, sequencerTurn_effect ha hu⟩
  · exact ⟨s.prog, s.sched.tail, s.readLog, .unchanged⟩
  · exact ⟨_, _, _, .unchanged⟩
  · exact ⟨_, _, _, .unchanged⟩
  · exact ⟨rest, s.sched.tail, s.readLog, write_effect ⟨ha, rest, hp⟩ hu⟩

/-- The same of the hardware's step. -/
theorem step_effect (h : step s = .next u) : ∃ p q lg, StepEffect tbl s (withHostSide p q lg s) u :=
  stepFor_effect (step_eq_stepFor_tbl ▸ h)

end

end Sys2Proof.Machine
end

section
/-! PROOFS. The invariant of R40 and of commands in progress: reset meets it, and each effect of a step keeps
it. The progress clauses rest on one step of the functions `KS` and `BLOCK` (R171, R202). -/

namespace Sys2Proof

open Sys2Proof.Machine Sys2Proof.Claims

/-! ### One round of `KS` and `BLOCK` -/

theorem ksHalves_succ (t : Tables) (key : Bits 64) (i : Fin 16) :
    ksHalves t key (i.val + 1) = ksRotate t i (ksHalves t key i.val) := by
  simp [ksHalves]

theorem blkHalves_succ (t : Tables) (b : Bits 64) (keys : Vector (Bits 48) 16) (i : Fin 16) :
    blkHalves t b keys (i.val + 1) = feistel t keys[i] (blkHalves t b keys i.val) := by
  simp [blkHalves]

/-- The round key of a `BLK_RND` step is entry `RND` of the keys in the order of use (R214). -/
theorem usedKeys_rnd (s : State) : (usedKeys s)[s.rnd] = roundKey s := by
  simp [usedKeys, keyOrder, roundKey]

/-- Storing round key `i` after those before it gives those up to `i` (R173). -/
theorem set_ksKey_of_le {t : Tables} {key : Bits 64} {rk : Vector (Bits 48) 16} {i : Fin 16}
    (h : ∀ j : Fin 16, j < i → rk[j] = ksKey t key j) (j : Fin 16) (hj : j ≤ i) :
    (rk.set i (ksKey t key i))[j] = ksKey t key j := by
  obtain rfl | hlt := hj.eq_or_lt
  · simp
  · have hne : i.val ≠ j.val := by omega
    simpa [Vector.getElem_set, hne] using h j hlt

/-- Sixteen entries that are each the round key of their index are the key schedule (R171). -/
theorem eq_ks_of_forall {t : Tables} {key : Bits 64} {rk : Vector (Bits 48) 16}
    (h : ∀ j : Fin 16, rk[j] = ksKey t key j) : rk = ks t key := by
  refine Vector.ext fun i hi => ?_
  simpa [ks] using h ⟨i, hi⟩

/-! ### Reserved bits (R40 (e)) -/

/-- No event is a reserved bit, so setting one leaves the reserved bits 0 (R285). -/
theorem setEvent_reserved {v : Byte} (e : Event) (h : v &&& reservedBits = 0#8) :
    (v ||| eventMask e) &&& reservedBits = 0#8 := by
  have he : eventMask e &&& reservedBits = 0#8 := by cases e <;> decide
  rw [BitVec.and_or_distrib_right, h, he, BitVec.or_zero]

theorem and_reserved {v : Byte} (w : Byte) (h : v &&& reservedBits = 0#8) :
    (v &&& w) &&& reservedBits = 0#8 := by
  rw [BitVec.and_assoc, BitVec.and_comm w, ← BitVec.and_assoc, h, BitVec.zero_and]

theorem implemented_reserved (v : Byte) : (v &&& implementedBits) &&& reservedBits = 0#8 := by
  have hi : implementedBits &&& reservedBits = 0#8 := by decide
  rw [BitVec.and_assoc, hi, BitVec.and_zero]

namespace Inv

variable {t : Tables} {s : State}

/-- In an idle state only R40 (b), (e) and (f) say anything. -/
theorem of_idle (hs : s.stage = .idle) (hr : s.rnd = 0) (he : s.evt &&& reservedBits = 0#8)
    (hi : s.ien &&& reservedBits = 0#8) (hk : s.kv = true → s.rk = ks t (keyBits s)) : Inv t s where
  rnd_zero h := absurd hr h
  keygen_kv h := by simp [hs, keygenStage] at h
  block_kv_ov h := by simp [hs, blockStage] at h
  evt_reserved := he
  ien_reserved := hi
  kv_rk := hk
  ks_progress h := by simp [hs] at h
  blk_progress h := by simp [hs] at h
  blk_last h := by simp [hs] at h

theorem reset (t : Tables) : Inv t State.reset := of_idle rfl rfl rfl rfl nofun

/-- The invariant speaks of the registers of the KFCC only. -/
theorem withHostSide (h : Inv t s) (p : List HostOp) (q : List Agent) (lg : List (Offset × Byte)) :
    Inv t (withHostSide p q lg s) where
  rnd_zero := h.rnd_zero
  keygen_kv := h.keygen_kv
  block_kv_ov := h.block_kv_ov
  evt_reserved := h.evt_reserved
  ien_reserved := h.ien_reserved
  kv_rk := h.kv_rk
  ks_progress := h.ks_progress
  blk_progress := h.blk_progress
  blk_last := h.blk_last

/-- R40 (b) outside the round stages. -/
theorem rnd_eq_zero (h : Inv t s) (hk : s.stage ≠ .ksRnd) (hb : s.stage ≠ .blkRnd) : s.rnd = 0 := by
  by_contra hr
  exact (h.rnd_zero hr).elim hk hb

theorem rnd_eq_zero_of_idle (h : Inv t s) (hs : s.stage = .idle) : s.rnd = 0 :=
  h.rnd_eq_zero (by simp [hs]) (by simp [hs])

/-- `EVT` and `IEN` may take any value without reserved bits, in every stage. -/
theorem with_evt_ien (h : Inv t s) {evt ien : Byte} (he : evt &&& reservedBits = 0#8)
    (hi : ien &&& reservedBits = 0#8) : Inv t { s with evt := evt, ien := ien } where
  rnd_zero := h.rnd_zero
  keygen_kv := h.keygen_kv
  block_kv_ov := h.block_kv_ov
  evt_reserved := he
  ien_reserved := hi
  kv_rk := h.kv_rk
  ks_progress := h.ks_progress
  blk_progress := h.blk_progress
  blk_last := h.blk_last

/-! ### The host's effects -/

theorem raise (h : Inv t s) (e : Event) : Inv t (raise e s) :=
  h.with_evt_ien (setEvent_reserved e h.evt_reserved) h.ien_reserved

theorem acknowledge (h : Inv t s) (v : Byte) : Inv t (acknowledge v s) :=
  h.with_evt_ien (and_reserved _ h.evt_reserved) h.ien_reserved

theorem writeIen (h : Inv t s) (v : Byte) : Inv t (writeIen v s) :=
  h.with_evt_ien h.evt_reserved (implemented_reserved v)

theorem writeKeyByte (h : Inv t s) (hs : s.stage = .idle) (k : Fin 8) (v : Byte) :
    Inv t (writeKeyByte k v s) :=
  of_idle hs (h.rnd_eq_zero_of_idle hs) h.evt_reserved h.ien_reserved nofun

theorem writeDinByte (h : Inv t s) (hs : s.stage = .idle) (k : Fin 8) (v : Byte) :
    Inv t (writeDinByte k v s) :=
  of_idle hs (h.rnd_eq_zero_of_idle hs) h.evt_reserved h.ien_reserved h.kv_rk

theorem zeroise (h : Inv t s) (hs : s.stage = .idle) : Inv t (zeroise s) :=
  of_idle hs rfl h.evt_reserved h.ien_reserved nofun

/-- An accepted `KEYGEN` (R170). -/
theorem startKeygen (h : Inv t s) (hs : s.stage = .idle) :
    Inv t { s with kv := false, stage := .ksPc1 } where
  rnd_zero hr := absurd (h.rnd_eq_zero_of_idle hs) hr
  keygen_kv _ := rfl
  block_kv_ov := nofun
  evt_reserved := h.evt_reserved
  ien_reserved := h.ien_reserved
  kv_rk := nofun
  ks_progress := nofun
  blk_progress := nofun
  blk_last := nofun

/-- An accepted `ENC` or `DEC` (R200, R201). -/
theorem startBlock (h : Inv t s) (hs : s.stage = .idle) (hkv : s.kv = true) (dir : Bool) :
    Inv t { s with dir := dir, ov := false, stage := .blkIp } where
  rnd_zero hr := absurd (h.rnd_eq_zero_of_idle hs) hr
  keygen_kv := nofun
  block_kv_ov _ := ⟨hkv, rfl⟩
  evt_reserved := h.evt_reserved
  ien_reserved := h.ien_reserved
  kv_rk := h.kv_rk
  ks_progress := nofun
  blk_progress := nofun
  blk_last := nofun

/-! ### The stages of `KEYGEN` -/

theorem kv_of_keygenStage (h : Inv t s) (hs : s.stage = .ksPc1 ∨ s.stage = .ksRnd) : s.kv = false :=
  h.keygen_kv (by obtain hs | hs := hs <;> simp [hs, keygenStage])

theorem stageKsPc1 (h : Inv t s) (hs : s.stage = .ksPc1) : Inv t (stageKsPc1 t s) where
  rnd_zero _ := .inl rfl
  keygen_kv _ := h.kv_of_keygenStage (.inl hs)
  block_kv_ov := nofun
  evt_reserved := h.evt_reserved
  ien_reserved := h.ien_reserved
  kv_rk := h.kv_rk
  ks_progress _ := ⟨rfl, fun j hj => absurd hj (Nat.not_lt_zero j.val)⟩
  blk_progress := nofun
  blk_last := nofun

/-- The halves that a `KS_RND` step stores are those of `KS` after its round. -/
theorem ksRotate_eq (h : Inv t s) (hs : s.stage = .ksRnd) :
    ksRotate t s.rnd (s.c, s.d) = ksHalves t (keyBits s) (s.rnd.val + 1) := by
  rw [ksHalves_succ, (h.ks_progress hs).1]

/-- The round key that a `KS_RND` step stores leaves the entries up to `RND` those of `KS` (R178). -/
theorem rk_set_eq_ksKey (h : Inv t s) (hs : s.stage = .ksRnd) (j : Fin 16) (hj : j ≤ s.rnd) :
    (s.rk.set s.rnd (ksCompress t (ksRotate t s.rnd (s.c, s.d))))[j] = ksKey t (keyBits s) j := by
  rw [h.ksRotate_eq hs]
  exact set_ksKey_of_le (h.ks_progress hs).2 j hj

theorem ksRound (h : Inv t s) (hs : s.stage = .ksRnd) {n : Fin 16} (hn : n.val = s.rnd.val + 1) :
    Inv t { s with
      c := (ksRotate t s.rnd (s.c, s.d)).1, d := (ksRotate t s.rnd (s.c, s.d)).2,
      rk := s.rk.set s.rnd (ksCompress t (ksRotate t s.rnd (s.c, s.d))), rnd := n } where
  rnd_zero _ := .inl hs
  keygen_kv _ := h.kv_of_keygenStage (.inr hs)
  block_kv_ov := h.block_kv_ov
  evt_reserved := h.evt_reserved
  ien_reserved := h.ien_reserved
  kv_rk hkv := by simp [h.kv_of_keygenStage (.inr hs)] at hkv
  ks_progress _ := by
    refine ⟨?_, fun j hj => h.rk_set_eq_ksKey hs j (by simp only [Fin.lt_def] at hj; omega)⟩
    rw [hn]; exact h.ksRotate_eq hs
  blk_progress hb := by simp [hs] at hb
  blk_last hb := by simp [hs] at hb

theorem ksLast (h : Inv t s) (hs : s.stage = .ksRnd) (hr : s.rnd = 15) :
    Inv t { s with
      c := (ksRotate t s.rnd (s.c, s.d)).1, d := (ksRotate t s.rnd (s.c, s.d)).2,
      rk := s.rk.set s.rnd (ksCompress t (ksRotate t s.rnd (s.c, s.d))),
      rnd := 0, stage := .idle, kv := true, evt := s.evt ||| eventMask .kdone } :=
  of_idle rfl rfl (setEvent_reserved _ h.evt_reserved) h.ien_reserved
    fun _ => eq_ks_of_forall fun j => h.rk_set_eq_ksKey hs j (by omega)

/-! ### The stages of `ENC` and `DEC` -/

theorem kv_ov_of_blkRnd (h : Inv t s) (hs : s.stage = .blkRnd) : s.kv = true ∧ s.ov = false :=
  h.block_kv_ov (by simp [hs, blockStage])

theorem stageBlkIp (h : Inv t s) (hs : s.stage = .blkIp) : Inv t (stageBlkIp t s) where
  rnd_zero _ := .inr rfl
  keygen_kv := nofun
  block_kv_ov _ := h.block_kv_ov (by simp [hs, blockStage])
  evt_reserved := h.evt_reserved
  ien_reserved := h.ien_reserved
  kv_rk := h.kv_rk
  ks_progress := nofun
  blk_progress _ := rfl
  blk_last := nofun

/-- The halves that a `BLK_RND` step stores are those of `BLOCK` after its round (R204, R220). -/
theorem feistel_eq (h : Inv t s) (hs : s.stage = .blkRnd) :
    (s.r, xorBits s.l (roundF t s.r (roundKey s))) =
      blkHalves t (dinBits s) (usedKeys s) (s.rnd.val + 1) := by
  rw [blkHalves_succ, usedKeys_rnd, ← h.blk_progress hs]; rfl

theorem blkRound (h : Inv t s) (hs : s.stage = .blkRnd) {n : Fin 16} (hn : n.val = s.rnd.val + 1) :
    Inv t { s with l := s.r, r := xorBits s.l (roundF t s.r (roundKey s)), rnd := n } where
  rnd_zero _ := .inr hs
  keygen_kv := h.keygen_kv
  block_kv_ov := h.block_kv_ov
  evt_reserved := h.evt_reserved
  ien_reserved := h.ien_reserved
  kv_rk := h.kv_rk
  ks_progress hk := by simp [hs] at hk
  blk_progress _ := by rw [hn]; exact h.feistel_eq hs
  blk_last hb := by simp [hs] at hb

theorem blkLast (h : Inv t s) (hs : s.stage = .blkRnd) (hr : s.rnd = 15) :
    Inv t { s with
      l := s.r, r := xorBits s.l (roundF t s.r (roundKey s)), rnd := 0, stage := .blkFp } where
  rnd_zero hn := absurd rfl hn
  keygen_kv := nofun
  block_kv_ov _ := h.kv_ov_of_blkRnd hs
  evt_reserved := h.evt_reserved
  ien_reserved := h.ien_reserved
  kv_rk := h.kv_rk
  ks_progress := nofun
  blk_progress := nofun
  blk_last _ := by have := h.feistel_eq hs; rwa [hr] at this

theorem stageBlkFp (h : Inv t s) (hs : s.stage = .blkFp) : Inv t (stageBlkFp t s) :=
  of_idle rfl (h.rnd_eq_zero (by simp [hs]) (by simp [hs])) (setEvent_reserved _ h.evt_reserved)
    h.ien_reserved h.kv_rk

/-- Every effect of a step keeps the invariant. -/
theorem of_effect {p : List HostOp} {q : List Agent} {lg : List (Offset × Byte)} {u : State} (h : Inv t s)
    (hu : StepEffect t s (Machine.withHostSide p q lg s) u) : Inv t u := by
  have hb := h.withHostSide p q lg
  cases hu with
  | unchanged => exact hb
  | refused e => exact hb.raise e
  | keyWrite k v hw => exact hb.writeKeyByte hw.1 k v
  | dinWrite k v hw => exact hb.writeDinByte hw.1 k v
  | evtWrite v _ => exact hb.acknowledge v
  | ienWrite v _ => exact hb.writeIen v
  | keygen hc => exact hb.startKeygen hc.1
  | block dir hc hkv => exact hb.startBlock (hc.elim And.left And.left) hkv dir
  | clr hc => exact hb.zeroise hc.1
  | reset _ => exact (Inv.reset t).withHostSide p q lg
  | ksPc1 hs => exact hb.stageKsPc1 hs.2
  | ksRound hs n hn => exact hb.ksRound hs.2 hn
  | ksLast hs hr => exact hb.ksLast hs.2 hr
  | blkIp hs => exact hb.stageBlkIp hs.2
  | blkRound hs n hn => exact hb.blkRound hs.2 hn
  | blkLast hs hr => exact hb.blkLast hs.2 hr
  | blkFp hs => exact hb.stageBlkFp hs.2

theorem stepFor {u : State} (h : Inv t s) (hu : stepFor t s = .next u) : Inv t u := by
  obtain ⟨p, q, lg, he⟩ := stepFor_effect hu
  exact h.of_effect he

end Inv

/-- Settles O36, by the cases of `StepEffect`. -/
theorem everyStepKeepsTheInvariant : Obligations.EveryStepKeepsTheInvariant :=
  ⟨fun _ _ _ h hu => h.stepFor hu, fun _ _ h hu => h.stepFor (step_eq_stepFor_tbl ▸ hu)⟩

/-- Settles O35: the reset state is idle with `RND`, `KV`, `EVT` and `IEN` 0. -/
theorem resetMeetsTheInvariant : Obligations.ResetMeetsTheInvariant := Inv.reset

end Sys2Proof
end

section
/-! PROOFS. Flags, events and the control registers of the window, bit by bit (R29 to R35), and the values
after reset (R39). -/

namespace Sys2Proof.Machine

/-! ### `EVT` and `IEN` -/

/-- The implemented bits are 0, 1, 4, 5 and 6 (R33, R34). -/
theorem getLsbD_implementedBits :
    ∀ k : Fin 8, implementedBits.getLsbD k.val = decide (k.val ∈ [0, 1, 4, 5, 6]) := by
  decide

theorem getLsbD_evt_acknowledge (v : Byte) (s : State) (k : Fin 8) :
    (acknowledge v s).evt.getLsbD k.val =
      (s.evt.getLsbD k.val && !(v.getLsbD k.val && decide (k.val ∈ [0, 1, 4, 5, 6]))) := by
  rw [← getLsbD_implementedBits, acknowledge_evt, BitVec.getLsbD_and, BitVec.getLsbD_not,
    BitVec.getLsbD_and, decide_eq_true k.isLt, Bool.true_and]

theorem getLsbD_ien_writeIen (v : Byte) (s : State) (k : Fin 8) :
    (writeIen v s).ien.getLsbD k.val = (v.getLsbD k.val && decide (k.val ∈ [0, 1, 4, 5, 6])) := by
  rw [← getLsbD_implementedBits, writeIen_ien, BitVec.getLsbD_and]

section
variable {run : Instr → State → Host.Outcome State Fault Refusal}

theorem memWrite_evtOffset (v : Byte) (s : State) :
    memWrite run evtOffset v s = .next (acknowledge v s) := by
  simp [memWrite, windowReg_evtOffset]

theorem memWrite_ienOffset (v : Byte) (s : State) : memWrite run ienOffset v s = .next (writeIen v s) := by
  simp [memWrite, windowReg_ienOffset]

theorem memWrite_statusOffset (v : Byte) (s : State) : memWrite run statusOffset v s = .next s := by
  simp [memWrite, windowReg_statusOffset]

end

/-- Settles O25, from the two writes and their bits. -/
theorem evtAndIenWrites : Obligations.EvtAndIenWrites := fun s v =>
  ⟨(acknowledge v s).evt, (writeIen v s).ien, memWrite_evtOffset v s, memWrite_ienOffset v s,
    fun k => ⟨getLsbD_evt_acknowledge v s k, getLsbD_ien_writeIen v s k⟩⟩

/-! ### `irq` -/

/-- A word is not zero exactly when one of its bits is 1. -/
theorem ne_zero_iff_exists_getLsbD {n : Nat} (v : BitVec n) :
    v ≠ 0#n ↔ ∃ k : Fin n, v.getLsbD k.val = true := by
  constructor
  · intro h
    by_contra hk
    push Not at hk
    exact h (BitVec.eq_of_getLsbD_eq fun i hi => by simpa using hk ⟨i, hi⟩)
  · rintro ⟨k, hk⟩ rfl
    simp at hk

/-- R35: some event is pending and enabled. -/
theorem irq_iff (s : State) :
    s.irq = true ↔ ∃ k : Fin 8, s.evt.getLsbD k.val = true ∧ s.ien.getLsbD k.val = true := by
  rw [State.irq, bne_iff_ne, ne_zero_iff_exists_getLsbD]
  simp only [BitVec.getLsbD_and, Bool.and_eq_true]

theorem irq_congr {s s' : State} (he : s.evt = s'.evt) (hi : s.ien = s'.ien) : s.irq = s'.irq := by
  rw [State.irq, State.irq, he, hi]

/-- Settles O24, the first part bit by bit (`irq_iff`). -/
theorem irqIsPendingAndEnabled : Obligations.IrqIsPendingAndEnabled :=
  ⟨irq_iff, fun _ _ => irq_congr, rfl⟩

/-! ### `STATUS` -/

/-- `ERRS` is 1 exactly when one of `EVT[6:4]` is (R31). -/
theorem errs_eq (s : State) :
    s.errs = (s.evt.getLsbD 4 || s.evt.getLsbD 5 || s.evt.getLsbD 6) := by
  have h : ∀ v : Byte, (v &&& errorBits != 0#8) = (v.getLsbD 4 || v.getLsbD 5 || v.getLsbD 6) := by
    decide +kernel
  exact h s.evt

theorem busy_eq (s : State) : s.busy = decide (s.stage ≠ .idle) := by
  cases hs : s.stage <;> simp [State.busy, hs]

/-- The four flags of `STATUS` fit in four bits. -/
theorem flagSum_lt (s : State) :
    s.busy.toNat + 2 * s.kv.toNat + 4 * s.ov.toNat + 8 * s.errs.toNat < 2 ^ 4 := by
  have hb := Bool.toNat_le s.busy
  have hk := Bool.toNat_le s.kv
  have ho := Bool.toNat_le s.ov
  have he := Bool.toNat_le s.errs
  omega

theorem status_toNat (s : State) :
    s.status.toNat = s.busy.toNat + 2 * s.kv.toNat + 4 * s.ov.toNat + 8 * s.errs.toNat := by
  rw [State.status, BitVec.toNat_ofNat, Nat.mod_eq_of_lt ((flagSum_lt s).trans (by decide))]

/-- The bits above `BUSY`, which is `status_bit_zero`. -/
theorem status_bits (s : State) : s.status.getLsbD 1 = s.kv ∧ s.status.getLsbD 2 = s.ov ∧
    s.status.getLsbD 3 = s.errs := by
  unfold State.status
  cases s.busy <;> cases s.kv <;> cases s.ov <;> cases s.errs <;> decide

/-- The value of `STATUS` is below 16, so the bits from 4 up are 0. -/
theorem status_bit_of_ge (s : State) {k : Nat} (hk : 4 ≤ k) : s.status.getLsbD k = false := by
  have hlt : s.status.toNat < 2 ^ 4 := by
    rw [status_toNat]; exact flagSum_lt s
  exact Nat.testBit_lt_two_pow (hlt.trans_le (Nat.pow_le_pow_right (by decide) hk))

/-- Settles O23, bit by bit. -/
theorem statusReadsTheFlags : Obligations.StatusReadsTheFlags := by
  intro s v
  have hread : memRead 0x19#6 s = s.status := memRead_statusOffset s
  obtain ⟨hkv, hov, herrs⟩ := status_bits s
  rw [hread]
  exact ⟨(status_bit_zero s).trans (busy_eq s), hkv, hov, herrs.trans (errs_eq s),
    fun _ => status_bit_of_ge s, status_toNat s, memWrite_statusOffset v s⟩

/-! ### Idle turns and reset -/

/-- Settles O5: the instruction of stage `IDLE` is the one that answers the same state. -/
theorem idleTurnPasses : Obligations.IdleTurnPasses := by
  refine ⟨fun _ => rfl, fun s ha hs => ?_⟩
  have hi : stageInstr s.stage = .idle := by rw [hs]; rfl
  rw [step_sequencer ha, hi]; rfl

/-- Settles O30. `ENC` and `DEC` are refused because the reset state is idle and has `KV = 0`. -/
theorem resetValues : Obligations.ResetValues := by
  refine ⟨?bytes, ?roundKeys, rfl, rfl, rfl, rfl, rfl, rfl, rfl, rfl, rfl, rfl, rfl, rfl, rfl, rfl, rfl,
    rfl, rfl⟩
  case bytes => simp [State.reset]
  case roundKeys => simp [State.reset]

end Sys2Proof.Machine
end

section
/-! PROOFS. Which steps change each register and flag (R20 to R34): the cases of `StepEffect` on it. For
`KV` and `OV` also the converse, that a step in those circumstances does set or clear the flag. -/

namespace Sys2Proof.Machine

open Sys2Proof.Claims

/-! ### What a step does in the circumstances that the statements name -/

theorem step_of_resets {s : State} (h : resets s) : step s = .next (resetCore (popTurn s)) :=
  step_platform h

theorem step_of_sequencerIn {s : State} {st : Stage} (h : sequencerIn s st) :
    step s = exec (stageInstr st) (popTurn s) := by
  rw [step_sequencer h.1, h.2]

theorem step_of_hostDoes_wr {s : State} {a : Offset} {v : Byte} (h : hostDoes s (.wr a v)) :
    ∃ rest, step s = memWrite exec a v (setProg rest (popTurn s)) := by
  obtain ⟨ha, rest, hp⟩ := h
  exact ⟨rest, by rw [step_host ha, hostTurn_wr (s := popTurn s) hp]⟩

/-- A command whose meaning is an effect of an idle state has that effect when its byte is written. -/
theorem step_of_idleCommand {s : State} {b : Byte} {i : Instr} {f : State → State} (h : idleCommand s b)
    (hb : decodeCmd b = .ok i) (hi : ∀ s, exec i s = .next (whenIdle f s)) :
    ∃ rest, step s = .next (f (setProg rest (popTurn s))) := by
  obtain ⟨hs, hw⟩ := h
  obtain ⟨rest, hstep⟩ := step_of_hostDoes_wr hw
  have hidle : (setProg rest (popTurn s)).busy = false := (busy_eq_false_iff _).2 hs
  refine ⟨rest, ?_⟩
  rw [hstep, ← whenIdle_of_idle (f := f) hidle, ← hi]
  exact writeCmd_of_ok hidle hb

theorem step_of_idleKeyWrite {s : State} (h : idleKeyWrite s) :
    ∃ k v rest, step s = .next (writeKeyByte k v (setProg rest (popTurn s))) := by
  obtain ⟨hs, a, v, ha, hw⟩ := h
  obtain ⟨rest, hstep⟩ := step_of_hostDoes_wr hw
  have hidle : (setProg rest (popTurn s)).busy = false := (busy_eq_false_iff _).2 hs
  refine ⟨byteIndex a, v, rest, ?_⟩
  simp [hstep, memWrite, windowReg, ha, whenIdle_of_idle hidle]

/-! ### Each register -/

section
variable {s u : State}

theorem who_changes_key (h : step s = .next u) (hne : u.key ≠ s.key) :
    (resets s ∨ idleCommand s 0x04#8) ∨ idleKeyWrite s := by
  obtain ⟨p, q, lg, he⟩ := step_effect h
  cases he with
  | reset hr => exact .inl (.inl hr)
  | clr hc => exact .inl (.inr hc)
  | keyWrite k v hw => exact .inr hw
  | _ => exact absurd rfl hne

theorem who_changes_din (h : step s = .next u) (hne : u.din ≠ s.din) :
    (resets s ∨ idleCommand s 0x04#8) ∨ idleDinWrite s := by
  obtain ⟨p, q, lg, he⟩ := step_effect h
  cases he with
  | reset hr => exact .inl (.inl hr)
  | clr hc => exact .inl (.inr hc)
  | dinWrite k v hw => exact .inr hw
  | _ => exact absurd rfl hne

theorem who_changes_dout (h : step s = .next u) (hne : u.dout ≠ s.dout) :
    (resets s ∨ idleCommand s 0x04#8) ∨ sequencerIn s .blkFp := by
  obtain ⟨p, q, lg, he⟩ := step_effect h
  cases he with
  | reset hr => exact .inl (.inl hr)
  | clr hc => exact .inl (.inr hc)
  | blkFp hs => exact .inr hs
  | _ => exact absurd rfl hne

theorem who_changes_rk (h : step s = .next u) (hne : u.rk ≠ s.rk) :
    (resets s ∨ idleCommand s 0x04#8) ∨ sequencerIn s .ksRnd := by
  obtain ⟨p, q, lg, he⟩ := step_effect h
  cases he with
  | reset hr => exact .inl (.inl hr)
  | clr hc => exact .inl (.inr hc)
  | ksRound hs n hn => exact .inr hs
  | ksLast hs hr => exact .inr hs
  | _ => exact absurd rfl hne

theorem who_changes_cd (h : step s = .next u) (hne : (u.c, u.d) ≠ (s.c, s.d)) :
    (resets s ∨ idleCommand s 0x04#8) ∨ sequencerIn s .ksPc1 ∨ sequencerIn s .ksRnd := by
  obtain ⟨p, q, lg, he⟩ := step_effect h
  cases he with
  | reset hr => exact .inl (.inl hr)
  | clr hc => exact .inl (.inr hc)
  | ksPc1 hs => exact .inr (.inl hs)
  | ksRound hs n hn => exact .inr (.inr hs)
  | ksLast hs hr => exact .inr (.inr hs)
  | _ => exact absurd rfl hne

theorem who_changes_lr (h : step s = .next u) (hne : (u.l, u.r) ≠ (s.l, s.r)) :
    (resets s ∨ idleCommand s 0x04#8) ∨ sequencerIn s .blkIp ∨ sequencerIn s .blkRnd := by
  obtain ⟨p, q, lg, he⟩ := step_effect h
  cases he with
  | reset hr => exact .inl (.inl hr)
  | clr hc => exact .inl (.inr hc)
  | blkIp hs => exact .inr (.inl hs)
  | blkRound hs n hn => exact .inr (.inr hs)
  | blkLast hs hr => exact .inr (.inr hs)
  | _ => exact absurd rfl hne

theorem who_changes_dir (h : step s = .next u) (hne : u.dir ≠ s.dir) :
    (resets s ∨ idleCommand s 0x04#8) ∨
      ((idleCommand s 0x02#8 ∨ idleCommand s 0x03#8) ∧ s.kv = true) := by
  obtain ⟨p, q, lg, he⟩ := step_effect h
  cases he with
  | reset hr => exact .inl (.inl hr)
  | clr hc => exact .inl (.inr hc)
  | block dir hc hkv => exact .inr ⟨hc, hkv⟩
  | _ => exact absurd rfl hne

/-! ### `KV` and `OV` (R32) -/

theorem who_sets_kv (h : step s = .next u) (hkv : s.kv = false) (hu : u.kv = true) :
    sequencerIn s .ksRnd ∧ s.rnd = 15 := by
  obtain ⟨p, q, lg, he⟩ := step_effect h
  cases he with
  | ksLast hs hr => exact ⟨hs, hr⟩
  | keyWrite | keygen | clr | reset => cases hu
  | _ => cases hkv.symm.trans hu

theorem who_clears_kv (h : step s = .next u) (hkv : s.kv = true) (hu : u.kv = false) :
    (resets s ∨ idleCommand s 0x04#8) ∨ idleCommand s 0x01#8 ∨ idleKeyWrite s := by
  obtain ⟨p, q, lg, he⟩ := step_effect h
  cases he with
  | reset hr => exact .inl (.inl hr)
  | clr hc => exact .inl (.inr hc)
  | keygen hc => exact .inr (.inl hc)
  | keyWrite k v hw => exact .inr (.inr hw)
  | ksLast => cases hu
  | _ => cases hkv.symm.trans hu

theorem who_sets_ov (h : step s = .next u) (hov : s.ov = false) (hu : u.ov = true) :
    sequencerIn s .blkFp := by
  obtain ⟨p, q, lg, he⟩ := step_effect h
  cases he with
  | blkFp hs => exact hs
  | block | clr | reset => cases hu
  | _ => cases hov.symm.trans hu

theorem who_clears_ov (h : step s = .next u) (hov : s.ov = true) (hu : u.ov = false) :
    (resets s ∨ idleCommand s 0x04#8) ∨
      ((idleCommand s 0x02#8 ∨ idleCommand s 0x03#8) ∧ s.kv = true) := by
  obtain ⟨p, q, lg, he⟩ := step_effect h
  cases he with
  | reset hr => exact .inl (.inl hr)
  | clr hc => exact .inl (.inr hc)
  | block dir hc hkv => exact .inr ⟨hc, hkv⟩
  | blkFp => cases hu
  | _ => cases hov.symm.trans hu

/-- A step answers one next state, so what one answer says holds of the other. -/
theorem eq_of_step {v : State} (h : step s = .next u) (hv : step s = .next v) : u = v := by
  rw [h] at hv; injection hv

/-- Reset and `CLR` clear both flags. -/
theorem flags_of_clears (h : step s = .next u) (hc : resets s ∨ idleCommand s 0x04#8) :
    u.kv = false ∧ u.ov = false := by
  obtain hr | hc := hc
  · rw [eq_of_step h (step_of_resets hr)]; exact ⟨rfl, rfl⟩
  · obtain ⟨rest, hstep⟩ := step_of_idleCommand hc (i := .clr) (by decide) fun _ => rfl
    rw [eq_of_step h hstep]; exact ⟨rfl, rfl⟩

theorem kv_of_ksRnd_last (h : step s = .next u) (hs : sequencerIn s .ksRnd) (hr : s.rnd = 15) :
    u.kv = true := by
  rw [eq_of_step h (step_of_sequencerIn hs), stageKsRnd_of_last (s := popTurn s) hr]

theorem kv_of_keygen (h : step s = .next u) (hc : idleCommand s 0x01#8) : u.kv = false := by
  obtain ⟨rest, hstep⟩ := step_of_idleCommand hc (i := .keygen) (by decide) fun _ => rfl
  rw [eq_of_step h hstep]

theorem kv_of_idleKeyWrite (h : step s = .next u) (hw : idleKeyWrite s) : u.kv = false := by
  obtain ⟨k, v, rest, hstep⟩ := step_of_idleKeyWrite hw
  rw [eq_of_step h hstep, writeKeyByte_kv]

theorem ov_of_blkFp (h : step s = .next u) (hs : sequencerIn s .blkFp) : u.ov = true := by
  rw [eq_of_step h (step_of_sequencerIn hs)]; rfl

theorem ov_of_block (h : step s = .next u) (hc : idleCommand s 0x02#8 ∨ idleCommand s 0x03#8)
    (hkv : s.kv = true) : u.ov = false := by
  obtain hc | hc := hc
  · obtain ⟨rest, hstep⟩ := step_of_idleCommand hc (i := .enc) (by decide) fun _ => rfl
    rw [eq_of_step h hstep, startBlock_of_kv (by exact hkv)]
  · obtain ⟨rest, hstep⟩ := step_of_idleCommand hc (i := .dec) (by decide) fun _ => rfl
    rw [eq_of_step h hstep, startBlock_of_kv (by exact hkv)]

/-! ### `EVT` and `IEN` (R33, R34, R288) -/

theorem who_clears_evt_bit (h : step s = .next u) (k : Fin 8) (hk : s.evt.getLsbD k.val = true)
    (hu : u.evt.getLsbD k.val = false) :
    resets s ∨ ∃ v : Byte, hostDoes s (.wr 0x1A#6 v) ∧ v.getLsbD k.val = true := by
  have hset : ∀ e : Event, ¬ (s.evt ||| eventMask e).getLsbD k.val = false := by simp [hk]
  obtain ⟨p, q, lg, he⟩ := step_effect h
  cases he with
  | reset hr => exact .inl hr
  | evtWrite v hw =>
    refine .inr ⟨v, hw, ?_⟩
    by_contra hv
    rw [getLsbD_evt_acknowledge, Bool.eq_false_of_not_eq_true hv] at hu
    exact absurd hu (by simpa [withHostSide] using hk)
  | refused e => exact absurd hu (hset e)
  | ksLast => exact absurd hu (hset .kdone)
  | blkFp => exact absurd hu (hset .bdone)
  | _ => cases hk.symm.trans hu

theorem who_changes_ien (h : step s = .next u) (hne : u.ien ≠ s.ien) :
    resets s ∨ ∃ v : Byte, hostDoes s (.wr 0x1B#6 v) := by
  obtain ⟨p, q, lg, he⟩ := step_effect h
  cases he with
  | reset hr => exact .inl hr
  | ienWrite v hw => exact .inr ⟨v, hw⟩
  | _ => exact absurd rfl hne

end

/-- Settles O40, register by register. -/
theorem whoChangesEachRegister : Obligations.WhoChangesEachRegister := fun _ _ h =>
  ⟨who_changes_key h, who_changes_din h, who_changes_dout h, who_changes_rk h, who_changes_cd h, who_changes_lr h, who_changes_dir h⟩

/-- Settles O41: only those steps set or clear the flags, and each of them does. -/
theorem whenKvAndOvChange : Obligations.WhenKvAndOvChange := by
  intro s u h
  refine ⟨fun hkv => ⟨who_sets_kv h hkv, fun ⟨hs, hr⟩ => kv_of_ksRnd_last h hs hr⟩,
    fun hkv => ⟨who_clears_kv h hkv, ?_⟩,
    fun hov => ⟨who_sets_ov h hov, ov_of_blkFp h⟩,
    fun hov => ⟨who_clears_ov h hov, ?_⟩⟩
  · rintro (hc | hc | hw)
    · exact (flags_of_clears h hc).1
    · exact kv_of_keygen h hc
    · exact kv_of_idleKeyWrite h hw
  · rintro (hc | ⟨hc, hkv⟩)
    · exact (flags_of_clears h hc).2
    · exact ov_of_block h hc hkv

/-- Settles O42, `EVT` bit by bit and then `IEN`. -/
theorem eventBitsAreSticky : Obligations.EventBitsAreSticky := fun _ _ h =>
  ⟨who_clears_evt_bit h, who_changes_ien h⟩

end Sys2Proof.Machine
end

section
/-! PROOFS. Noninterference of the key material (R38, R294): two states that differ in `KEY`, `RK`, `C`, `D`, `L`
and `R` only take the same branches, so every operation but `BLK_FP` leaves them differing there only. The
lemmas follow the layers of a step: one operation, one instruction, one write, one turn. -/

namespace Sys2Proof.Machine

open Sys2Proof.Claims

/-- Both outcomes are next states, and these agree on all but the secrets. -/
def outcomesAgree (o o' : Host.Outcome State Fault Refusal) : Prop :=
  ∃ u u', o = .next u ∧ o' = .next u' ∧ sameButSecrets u u'

theorem outcomesAgree_next {u u' : State} (h : sameButSecrets u u') :
    outcomesAgree (.next u) (.next u') :=
  ⟨u, u', rfl, rfl, h⟩

section
variable {s s' : State}

/-- An update keeps agreement when it does so for every value of the six registers. -/
theorem map_sameButSecrets {f : State → State} (h : sameButSecrets s s')
    (hf : ∀ key rk c d l r,
      sameButSecrets (f s) (f { s with key := key, rk := rk, c := c, d := d, l := l, r := r })) :
    sameButSecrets (f s) (f s') := by
  rw [h]
  exact hf s'.key s'.rk s'.c s'.d s'.l s'.r

theorem busy_of_sameButSecrets (h : sameButSecrets s s') : s'.busy = s.busy := by rw [h]; rfl

theorem nextAgent_of_sameButSecrets (h : sameButSecrets s s') : nextAgent s' = nextAgent s := by
  rw [h]; rfl

/-- No register that a read returns is one of the six (R38, R63). -/
theorem memRead_of_sameButSecrets (h : sameButSecrets s s') (a : Offset) : memRead a s' = memRead a s := by
  rw [h]; rfl

/-! ### Operations -/

theorem raise_sameButSecrets (h : sameButSecrets s s') (e : Event) :
    sameButSecrets (raise e s) (raise e s') :=
  map_sameButSecrets h fun _ _ _ _ _ _ => rfl

theorem popTurn_sameButSecrets (h : sameButSecrets s s') : sameButSecrets (popTurn s) (popTurn s') :=
  map_sameButSecrets h fun _ _ _ _ _ _ => rfl

theorem setProg_sameButSecrets (h : sameButSecrets s s') (p : List HostOp) :
    sameButSecrets (setProg p s) (setProg p s') :=
  map_sameButSecrets h fun _ _ _ _ _ _ => rfl

theorem logRead_sameButSecrets (h : sameButSecrets s s') (a : Offset) :
    sameButSecrets (logRead a (memRead a s) s) (logRead a (memRead a s') s') := by
  rw [memRead_of_sameButSecrets h]
  exact map_sameButSecrets h fun _ _ _ _ _ _ => rfl

theorem whenIdle_sameButSecrets {f : State → State} (h : sameButSecrets s s')
    (hf : sameButSecrets (f s) (f s')) : sameButSecrets (whenIdle f s) (whenIdle f s') := by
  have hbusy := busy_of_sameButSecrets h
  cases hb : s.busy with
  | true =>
    rw [whenIdle_of_busy hb, whenIdle_of_busy (hbusy.trans hb)]
    exact raise_sameButSecrets h .eBusy
  | false => rwa [whenIdle_of_idle hb, whenIdle_of_idle (hbusy.trans hb)]

theorem startBlock_sameButSecrets (h : sameButSecrets s s') (dir : Bool) :
    sameButSecrets (startBlock dir s) (startBlock dir s') := by
  have hkv : s'.kv = s.kv := by rw [h]
  cases hk : s.kv with
  | true =>
    refine map_sameButSecrets h fun _ _ _ _ _ _ => ?_
    rw [startBlock_of_kv hk, startBlock_of_kv (by exact hk)]; rfl
  | false =>
    rw [startBlock_of_not_kv hk, startBlock_of_not_kv (hkv.trans hk)]
    exact raise_sameButSecrets h .eNokey

theorem stageKsRnd_sameButSecrets (h : sameButSecrets s s') (t : Tables) :
    sameButSecrets (stageKsRnd t s) (stageKsRnd t s') := by
  refine map_sameButSecrets h fun _ _ _ _ _ _ => ?_
  obtain hr | hr := rnd_eq_last_or_lt s.rnd
  · rw [stageKsRnd_of_last hr, stageKsRnd_of_last (by exact hr)]; rfl
  · rw [stageKsRnd_of_lt hr, stageKsRnd_of_lt (by exact hr)]; rfl

theorem stageBlkRnd_sameButSecrets (h : sameButSecrets s s') (t : Tables) :
    sameButSecrets (stageBlkRnd t s) (stageBlkRnd t s') := by
  refine map_sameButSecrets h fun _ _ _ _ _ _ => ?_
  obtain hr | hr := rnd_eq_last_or_lt s.rnd
  · rw [stageBlkRnd_of_last hr, stageBlkRnd_of_last (by exact hr)]; rfl
  · rw [stageBlkRnd_of_lt hr, stageBlkRnd_of_lt (by exact hr)]; rfl

/-! ### Instructions, writes and turns -/

/-- Every instruction but `BLK_FP`, whose `DOUT` depends on `L` and `R`. -/
theorem execFor_outcomesAgree (h : sameButSecrets s s') (t : Tables) {i : Instr} (hi : i ≠ .blkFp) :
    outcomesAgree (execFor t i s) (execFor t i s') := by
  cases i with
  | nop => exact outcomesAgree_next (whenIdle_sameButSecrets h h)
  | keygen =>
    exact outcomesAgree_next (whenIdle_sameButSecrets h (map_sameButSecrets
      (f := fun s => { s with kv := false, stage := .ksPc1 }) h fun _ _ _ _ _ _ => rfl))
  | enc => exact outcomesAgree_next (whenIdle_sameButSecrets h (startBlock_sameButSecrets h false))
  | dec => exact outcomesAgree_next (whenIdle_sameButSecrets h (startBlock_sameButSecrets h true))
  | clr =>
    exact outcomesAgree_next
      (whenIdle_sameButSecrets h (map_sameButSecrets (f := zeroise) h fun _ _ _ _ _ _ => rfl))
  | idle => exact outcomesAgree_next h
  | ksPc1 => exact outcomesAgree_next (map_sameButSecrets (f := stageKsPc1 t) h fun _ _ _ _ _ _ => rfl)
  | ksRnd => exact outcomesAgree_next (stageKsRnd_sameButSecrets h t)
  | blkIp => exact outcomesAgree_next (map_sameButSecrets (f := stageBlkIp t) h fun _ _ _ _ _ _ => rfl)
  | blkRnd => exact outcomesAgree_next (stageBlkRnd_sameButSecrets h t)
  | blkFp => exact absurd rfl hi

/-- No byte written to `CMD` decodes to a stage (R92), so none to `BLK_FP`. -/
theorem decodeCmd_ne_blkFp {v : Byte} {i : Instr} (hv : decodeCmd v = .ok i) : i ≠ .blkFp := by
  rintro rfl
  obtain ⟨-, hd⟩ | ⟨-, hd⟩ | ⟨-, hd⟩ | ⟨-, hd⟩ | ⟨-, hd⟩ | ⟨-, hd⟩ := decodeCmd_cases v <;>
    cases hd.symm.trans hv

theorem writeCmd_outcomesAgree (h : sameButSecrets s s') (t : Tables) (v : Byte) :
    outcomesAgree (writeCmd (execFor t) v s) (writeCmd (execFor t) v s') := by
  have hbusy := busy_of_sameButSecrets h
  cases hb : s.busy with
  | true =>
    rw [writeCmd_of_busy hb, writeCmd_of_busy (hbusy.trans hb)]
    exact outcomesAgree_next (raise_sameButSecrets h .eBusy)
  | false =>
    cases hv : decodeCmd v with
    | ok i =>
      rw [writeCmd_of_ok hb hv, writeCmd_of_ok (hbusy.trans hb) hv]
      exact execFor_outcomesAgree h t (decodeCmd_ne_blkFp hv)
    | error e =>
      rw [writeCmd_of_reserved hb hv, writeCmd_of_reserved (hbusy.trans hb) hv]
      exact outcomesAgree_next (raise_sameButSecrets h .eIllcmd)

theorem memWrite_outcomesAgree (h : sameButSecrets s s') (t : Tables) (a : Offset) (v : Byte) :
    outcomesAgree (memWrite (execFor t) a v s) (memWrite (execFor t) a v s') := by
  unfold memWrite
  cases windowReg a with
  | key k =>
    exact outcomesAgree_next
      (whenIdle_sameButSecrets h (map_sameButSecrets h fun _ _ _ _ _ _ => rfl))
  | din k =>
    exact outcomesAgree_next
      (whenIdle_sameButSecrets h (map_sameButSecrets h fun _ _ _ _ _ _ => rfl))
  | cmd => exact writeCmd_outcomesAgree h t v
  | evt => exact outcomesAgree_next (map_sameButSecrets h fun _ _ _ _ _ _ => rfl)
  | ien => exact outcomesAgree_next (map_sameButSecrets h fun _ _ _ _ _ _ => rfl)
  | dout | status | reserved => exact outcomesAgree_next h

theorem hostTurn_outcomesAgree (h : sameButSecrets s s') (t : Tables) :
    outcomesAgree (hostTurn (execFor t) s) (hostTurn (execFor t) s') := by
  have hprog : s'.prog = s.prog := by rw [h]
  cases hp : s.prog with
  | nil =>
    rw [hostTurn_nil hp, hostTurn_nil (hprog.trans hp)]
    exact outcomesAgree_next h
  | cons op rest =>
    cases op with
    | rd a =>
      rw [hostTurn_rd hp, hostTurn_rd (hprog.trans hp)]
      exact outcomesAgree_next (setProg_sameButSecrets (logRead_sameButSecrets h a) rest)
    | wr a v =>
      rw [hostTurn_wr hp, hostTurn_wr (hprog.trans hp)]
      exact memWrite_outcomesAgree (setProg_sameButSecrets h rest) t a v
    | wait =>
      rw [hostTurn_wait hp, hostTurn_wait (hprog.trans hp), hprog, busy_of_sameButSecrets h]
      exact outcomesAgree_next (setProg_sameButSecrets (logRead_sameButSecrets h statusOffset) _)

theorem stageInstr_ne_blkFp {st : Stage} (h : st ≠ .blkFp) : stageInstr st ≠ .blkFp := by
  cases st with
  | blkFp => exact absurd rfl h
  | _ => nofun

theorem stepFor_outcomesAgree (h : sameButSecrets s s') (t : Tables) (hfp : ¬ sequencerIn s .blkFp) :
    outcomesAgree (stepFor t s) (stepFor t s') := by
  have hpop := popTurn_sameButSecrets h
  have hnext := nextAgent_of_sameButSecrets h
  have hstage : s'.stage = s.stage := by rw [h]
  unfold stepFor
  cases ha : nextAgent s with
  | host =>
    rw [stepWith_host ha, stepWith_host (hnext.trans ha)]
    exact hostTurn_outcomesAgree hpop t
  | sequencer =>
    rw [stepWith_sequencer ha, stepWith_sequencer (hnext.trans ha), hstage]
    exact execFor_outcomesAgree hpop t (stageInstr_ne_blkFp fun hs => hfp ⟨ha, hs⟩)
  | platform =>
    rw [stepWith_platform ha, stepWith_platform (hnext.trans ha)]
    exact outcomesAgree_next (map_sameButSecrets (f := resetCore) hpop fun _ _ _ _ _ _ => rfl)

end

/-- Settles O43: the reads by `memRead_of_sameButSecrets`, the steps by `stepFor_outcomesAgree`. -/
theorem keyMaterialReachesTheHostOnlyThroughBlkFp :
    Obligations.KeyMaterialReachesTheHostOnlyThroughBlkFp := by
  refine fun s s' h => ⟨fun a => (memRead_of_sameButSecrets h a).symm, fun u u' hfp hu hu' => ?_⟩
  obtain ⟨v, v', hv, hv', hsame⟩ := stepFor_outcomesAgree h tbl hfp
  rw [step_eq_stepFor_tbl] at hu hu'
  cases hu.symm.trans hv
  cases hu'.symm.trans hv'
  exact hsame

end Sys2Proof.Machine
end

section
/-! PROOFS. The host's side of the window: what a read and a write do at each offset (R63, R64), said register
by register, and what the host's turns do (R62, R71, R99). -/

namespace Sys2Proof.Machine

/-! ### Which register an offset is (R61, R66) -/

section
variable {a : Offset} {k : Fin 8}

theorem eq_keyOffset (h : a.toNat = k.val) : a = keyOffset k :=
  BitVec.eq_of_toNat_eq (by simp only [keyOffset, BitVec.toNat_ofNat]; omega)

theorem eq_dinOffset (h : a.toNat = 0x08 + k.val) : a = dinOffset k :=
  BitVec.eq_of_toNat_eq (by simp only [dinOffset, BitVec.toNat_ofNat]; omega)

theorem eq_doutOffset (h : a.toNat = 0x10 + k.val) : a = doutOffset k :=
  BitVec.eq_of_toNat_eq (by simp only [doutOffset, BitVec.toNat_ofNat]; omega)

theorem exists_eq_keyOffset (h : a.toNat < 0x08) : ∃ k, a = keyOffset k :=
  ⟨⟨a.toNat, h⟩, eq_keyOffset rfl⟩

theorem exists_eq_doutOffset (h : 0x10 ≤ a.toNat) (h' : a.toNat < 0x18) : ∃ k, a = doutOffset k :=
  ⟨⟨a.toNat - 0x10, by omega⟩, eq_doutOffset (by simp only; omega)⟩

theorem windowReg_of_ge (h : 0x1C ≤ a.toNat) : windowReg a = .reserved := by
  have hge : ∀ n < 0x1C, ¬ a.toNat < n ∧ a.toNat ≠ n := fun n hn => by omega
  simp [windowReg, hge]

end

/-! ### Reads (R63) -/

section
variable (k : Fin 8) (s : State)

theorem memRead_keyOffset : memRead (keyOffset k) s = 0x00#8 := by
  simp [memRead, windowReg_keyOffset]

theorem memRead_dinOffset : memRead (dinOffset k) s = s.din[k] := by
  simp [memRead, windowReg_dinOffset]

theorem memRead_doutOffset : memRead (doutOffset k) s = s.dout[k] := by
  simp [memRead, windowReg_doutOffset]

theorem memRead_cmdOffset : memRead cmdOffset s = 0x00#8 := by
  simp [memRead, windowReg_cmdOffset]

theorem memRead_evtOffset : memRead evtOffset s = s.evt := by
  simp [memRead, windowReg_evtOffset]

theorem memRead_ienOffset : memRead ienOffset s = s.ien := by
  simp [memRead, windowReg_ienOffset]

theorem memRead_of_ge {a : Offset} (h : 0x1C ≤ a.toNat) : memRead a s = 0x00#8 := by
  simp [memRead, windowReg_of_ge h]

end

/-- A read changes the host's side only: no register depends on it (R63). -/
theorem step_of_prog_rd {s : State} {a : Offset} {rest : List HostOp} (ha : nextAgent s = .host)
    (hp : s.prog = .rd a :: rest) :
    step s = .next (setProg rest (logRead a (memRead a s) (popTurn s))) := by
  rw [step_host ha, hostTurn_rd (s := popTurn s) hp]; rfl

/-- Settles O21, register by register. -/
theorem readsReturnTheRegisterAndChangeNothing : Obligations.ReadsReturnTheRegisterAndChangeNothing := by
  intro s a
  refine ⟨fun h => ?key, fun k h => ?din, fun k h => ?dout, fun h => ?cmd, fun h => ?status, fun h => ?evt,
    fun h => ?ien, memRead_of_ge s, fun rest => step_of_prog_rd⟩
  case key => obtain ⟨k, rfl⟩ := exists_eq_keyOffset h; exact memRead_keyOffset k s
  case din => rw [eq_dinOffset h]; exact memRead_dinOffset k s
  case dout => rw [eq_doutOffset h]; exact memRead_doutOffset k s
  case cmd => rw [BitVec.eq_of_toNat_eq (y := cmdOffset) h]; exact memRead_cmdOffset s
  case status => rw [BitVec.eq_of_toNat_eq (y := statusOffset) h]; exact memRead_statusOffset s
  case evt => rw [BitVec.eq_of_toNat_eq (y := evtOffset) h]; exact memRead_evtOffset s
  case ien => rw [BitVec.eq_of_toNat_eq (y := ienOffset) h]; exact memRead_ienOffset s

/-! ### Writes (R64) -/

section
variable {run : Instr → State → Host.Outcome State Fault Refusal}

theorem memWrite_keyOffset (k : Fin 8) (v : Byte) (s : State) :
    memWrite run (keyOffset k) v s = .next (whenIdle (writeKeyByte k v) s) := by
  simp [memWrite, windowReg_keyOffset]

theorem memWrite_dinOffset (k : Fin 8) (v : Byte) (s : State) :
    memWrite run (dinOffset k) v s = .next (whenIdle (writeDinByte k v) s) := by
  simp [memWrite, windowReg_dinOffset]

theorem memWrite_doutOffset (k : Fin 8) (v : Byte) (s : State) :
    memWrite run (doutOffset k) v s = .next s := by
  simp [memWrite, windowReg_doutOffset]

theorem memWrite_cmdOffset (v : Byte) (s : State) : memWrite run cmdOffset v s = writeCmd run v s := by
  simp [memWrite, windowReg_cmdOffset]

theorem memWrite_of_ge {a : Offset} (h : 0x1C ≤ a.toNat) (v : Byte) (s : State) :
    memWrite run a v s = .next s := by
  simp [memWrite, windowReg_of_ge h]

theorem busy_of_stage_ne_idle {s : State} (h : s.stage ≠ .idle) : s.busy = true := by
  rw [busy_eq]; exact decide_eq_true h

/-- The two cases of `whenIdle` in terms of `STAGE` (R29). -/
theorem next_whenIdle (f : State → State) (s : State) :
    (.next (whenIdle f s) : Host.Outcome State Fault Refusal) =
      if s.stage = .idle then .next (f s) else .next (raise .eBusy s) := by
  split
  case isTrue h => rw [whenIdle_of_idle ((busy_eq_false_iff s).2 h)]
  case isFalse h => rw [whenIdle_of_busy (busy_of_stage_ne_idle h)]

/-- What an idle KFCC does with each byte written to `CMD` (R92, R93). -/
theorem writeCmd_of_idle (v : Byte) {s : State} (h : s.busy = false) :
    writeCmd run v s =
      if v = 0x00#8 then run .nop s else if v = 0x01#8 then run .keygen s
      else if v = 0x02#8 then run .enc s else if v = 0x03#8 then run .dec s
      else if v = 0x04#8 then run .clr s else .next (raise .eIllcmd s) := by
  obtain ⟨rfl, hd⟩ | ⟨rfl, hd⟩ | ⟨rfl, hd⟩ | ⟨rfl, hd⟩ | ⟨rfl, hd⟩ | ⟨hv, hd⟩ := decodeCmd_cases v
  case inr.inr.inr.inr.inr =>
    have hne : ∀ n < 5, v ≠ BitVec.ofNat 8 n := by
      rintro n hn rfl
      simp only [BitVec.toNat_ofNat] at hv
      omega
    rw [writeCmd_of_reserved h hd]
    simp [hne]
  all_goals exact writeCmd_of_ok h hd

end

/-- Settles O22, register by register. -/
theorem writesActByOffset : Obligations.WritesActByOffset := by
  intro s a v busyError
  refine ⟨fun k h => ?key, fun k h => ?din, fun h h' => ?dout, fun h => ?cmd, fun h => ?status, fun h => ?evt,
    fun h => ?ien, fun h => memWrite_of_ge h v s⟩
  case key => rw [eq_keyOffset h, memWrite_keyOffset]; exact next_whenIdle _ s
  case din => rw [eq_dinOffset h, memWrite_dinOffset]; exact next_whenIdle _ s
  case dout => obtain ⟨k, rfl⟩ := exists_eq_doutOffset h h'; exact memWrite_doutOffset k v s
  case cmd =>
    rw [BitVec.eq_of_toNat_eq (y := cmdOffset) h, memWrite_cmdOffset]
    split
    case isTrue hs => exact writeCmd_of_idle v ((busy_eq_false_iff s).2 hs)
    case isFalse hs => exact writeCmd_of_busy (busy_of_stage_ne_idle hs)
  case status => rw [BitVec.eq_of_toNat_eq (y := statusOffset) h]; exact memWrite_statusOffset v s
  case evt => rw [BitVec.eq_of_toNat_eq (y := evtOffset) h]; exact memWrite_evtOffset v s
  case ien => rw [BitVec.eq_of_toNat_eq (y := ienOffset) h]; exact memWrite_ienOffset v s

/-! ### The host's turns (R62, R99) -/

section
variable {s : State}

theorem popTurn_status (s : State) : (popTurn s).status = s.status := rfl

/-- The order of turns with an empty schedule (assumption log entry 2). -/
theorem nextAgent_of_nil (h : s.sched = []) :
    nextAgent s = if s.stage = .idle then .host else .sequencer := by
  simp [nextAgent, h, busy_eq]

theorem step_of_prog_nil (ha : nextAgent s = .host) (hp : s.prog = []) : step s = .next (popTurn s) := by
  rw [step_host ha, hostTurn_nil (s := popTurn s) hp]

theorem step_of_prog_wr {a : Offset} {v : Byte} {rest : List HostOp} (ha : nextAgent s = .host)
    (hp : s.prog = .wr a v :: rest) : step s = memWrite exec a v (setProg rest (popTurn s)) := by
  rw [step_host ha, hostTurn_wr (s := popTurn s) hp]

/-- `WAIT` is one read of `STATUS`, which ends the wait when the KFCC is idle (R99). -/
theorem step_of_prog_wait {rest : List HostOp} (ha : nextAgent s = .host) (hp : s.prog = .wait :: rest) :
    step s = .next (setProg (if s.stage = .idle then rest else s.prog)
      (logRead statusOffset s.status (popTurn s))) := by
  rw [step_host ha, hostTurn_wait (s := popTurn s) hp, memRead_statusOffset, popTurn_status]
  by_cases hs : s.stage = .idle <;> simp [busy_eq, hs]

end

/-- Settles O33, one lemma for each kind of turn. -/
theorem hostTurnsFollowTheProgram : Obligations.HostTurnsFollowTheProgram :=
  ⟨fun _ _ _ => nextAgent_of_cons, fun _ => nextAgent_of_nil,
    fun _ ha => ⟨step_of_prog_nil ha, fun _ _ _ => step_of_prog_wr ha, fun _ => step_of_prog_wait ha⟩⟩

end Sys2Proof.Machine
end

section
/-! PROOFS. The sequencer's turns as the host sees them (R71 (c), (d), R178): every stage but the two that end a
command writes registers that no read returns, and those two publish the result and its flags at once. -/

namespace Sys2Proof.Machine

open Sys2Proof.Claims

/-- The states agree on every register but `RK`, `C`, `D`, `L`, `R`, `RND` and `STAGE`, and on the host's
program and read log. Of the seven a read shows `BUSY` only (R31, R63). -/
def sameButWorking (s u : State) : Prop :=
  u = { s with rk := u.rk, c := u.c, d := u.d, l := u.l, r := u.r, rnd := u.rnd, stage := u.stage,
               sched := u.sched }

section
variable {s u : State}

theorem memRead_of_sameButWorking (h : sameButWorking s u) (hb : u.busy = s.busy) (a : Offset) :
    memRead a u = memRead a s := by
  have hstatus : u.status = s.status := by
    unfold State.status
    rw [hb, h]; rfl
  unfold memRead
  cases windowReg a with
  | status => exact hstatus
  | _ => rw [h]

/-- What a sequencer's turn can do: a stage that writes working registers only and leaves `BUSY` as it is, or
one of the two stages that end a command (R173, R205). -/
theorem sequencer_step_cases (ha : nextAgent s = .sequencer) (h : step s = .next u) :
    (sameButWorking s u ∧ u.busy = s.busy) ∨
    (s.stage = .ksRnd ∧ s.rnd = 15 ∧ u = stageKsRnd tbl (popTurn s)) ∨
    (s.stage = .blkFp ∧ u = stageBlkFp tbl (popTurn s)) := by
  cases hs : s.stage <;> rw [step_of_sequencerIn ⟨ha, hs⟩] at h <;> injection h with h <;> subst h
  case idle => exact .inl ⟨rfl, rfl⟩
  case ksPc1 => exact .inl ⟨rfl, (busy_of_stage_ne_idle (by simp [hs])).symm⟩
  case ksRnd =>
    obtain hr | hr := rnd_eq_last_or_lt s.rnd
    · exact .inr (.inl ⟨rfl, hr, rfl⟩)
    · rw [stageKsRnd_of_lt (s := popTurn s) hr]; exact .inl ⟨rfl, rfl⟩
  case blkIp => exact .inl ⟨rfl, (busy_of_stage_ne_idle (by simp [hs])).symm⟩
  case blkRnd =>
    obtain hr | hr := rnd_eq_last_or_lt s.rnd
    · rw [stageBlkRnd_of_last (s := popTurn s) hr]; exact .inl ⟨rfl, (busy_of_stage_ne_idle (by simp [hs])).symm⟩
    · rw [stageBlkRnd_of_lt (s := popTurn s) hr]; exact .inl ⟨rfl, rfl⟩
  case blkFp => exact .inr (.inr ⟨rfl, rfl⟩)

theorem stageKsRnd_busy_of_last (t : Tables) (hr : s.rnd = 15) : (stageKsRnd t s).busy = false := by
  rw [stageKsRnd_of_last hr]; rfl

end

/-- Settles O38: a stage that leaves the machine busy is one that writes working registers only. -/
theorem commandsAreSilentUntilTheyComplete : Obligations.CommandsAreSilentUntilTheyComplete := by
  intro s u ha h hu a
  obtain ⟨hsame, hb⟩ | ⟨-, hr, rfl⟩ | ⟨-, rfl⟩ := sequencer_step_cases ha h
  · exact memRead_of_sameButWorking hsame hb a
  · exact absurd hu (by rw [stageKsRnd_busy_of_last tbl (s := popTurn s) hr]; decide)
  · cases hu

/-! ### The result of a command (R71 (c)) -/

/-- Setting an event sets its bit (R33). -/
theorem getLsbD_or_eventMask (v : Byte) (e : Event) : (v ||| eventMask e).getLsbD (eventCode e) = true := by
  have he : (eventMask e).getLsbD (eventCode e) = true := by cases e <;> decide
  rw [BitVec.getLsbD_or, he, Bool.or_true]

section
variable {t : Tables} {s : State}

/-- The last step of a `KEYGEN`: the round keys are those of `KEY` because the invariant holds of the state it
leaves, where `KV = 1` (R40 (f), R178). -/
theorem stageKsRnd_publishes (h : Inv t s) (hs : s.stage = .ksRnd) (hr : s.rnd = 15) :
    (stageKsRnd t s).kv = true ∧ (stageKsRnd t s).evt.getLsbD 0 = true ∧
      (stageKsRnd t s).rk = ks t (keyBits (stageKsRnd t s)) ∧ (stageKsRnd t s).key = s.key := by
  rw [stageKsRnd_of_last hr]
  exact ⟨rfl, getLsbD_or_eventMask s.evt .kdone, (h.ksLast hs hr).kv_rk rfl, rfl⟩

/-- In `BLK_FP` the final permutation gives the block function of `DIN` (R212, R216). -/
theorem blkFinish_eq_block (h : Inv t s) (hs : s.stage = .blkFp) :
    blkFinish t (s.l, s.r) = block t (dinBits s) (usedKeys s) := by
  rw [h.blk_last hs]; rfl

theorem stageBlkFp_publishes (h : Inv t s) (hs : s.stage = .blkFp) :
    (stageBlkFp t s).ov = true ∧ (stageBlkFp t s).evt.getLsbD 1 = true ∧
      (stageBlkFp t s).din = s.din ∧ (stageBlkFp t s).rk = s.rk ∧
      (stageBlkFp t s).dout =
        bitsToBytes (m := 8) (block t (dinBits (stageBlkFp t s)) (usedKeys (stageBlkFp t s))) := by
  refine ⟨rfl, getLsbD_or_eventMask s.evt .bdone, rfl, rfl, ?_⟩
  rw [stageBlkFp_dout, blkFinish_eq_block h hs]; rfl

end

/-- Settles O39: a step that ends a command is the last `KS_RND` or `BLK_FP`. -/
theorem completionPublishesTheResult : Obligations.CompletionPublishesTheResult := by
  intro s u hinv ha h hs hu
  have hpop : Inv tbl (popTurn s) := hinv.withHostSide s.prog s.sched.tail s.readLog
  obtain ⟨-, hb⟩ | ⟨hst, hr, rfl⟩ | ⟨hst, rfl⟩ := sequencer_step_cases ha h
  · rw [hb, hs] at hu; cases hu
  · exact ⟨fun _ => stageKsRnd_publishes hpop hst hr, fun hk => by simp [hst, blockStage] at hk⟩
  · exact ⟨fun hk => by simp [hst, keygenStage] at hk, fun _ => stageBlkFp_publishes hpop hst⟩

end Sys2Proof.Machine
end

section
/-! PROOFS. Words and instructions (R90 to R95): every word is the word of an instruction or is rejected, and a
step executes the instruction that the stage code, or the byte written to `CMD`, decodes to. -/

namespace Sys2Proof.Machine

/-! ### The words of the instructions -/

theorem roundTrip : ∀ i : Instr, Laws.RoundTrip.Statement i
  | .nop => Laws.RoundTrip.nop
  | .keygen => Laws.RoundTrip.keygen
  | .enc => Laws.RoundTrip.enc
  | .dec => Laws.RoundTrip.dec
  | .clr => Laws.RoundTrip.clr
  | .idle => Laws.RoundTrip.idle
  | .ksPc1 => Laws.RoundTrip.ksPc1
  | .ksRnd => Laws.RoundTrip.ksRnd
  | .blkIp => Laws.RoundTrip.blkIp
  | .blkRnd => Laws.RoundTrip.blkRnd
  | .blkFp => Laws.RoundTrip.blkFp

@[simp] theorem wf_encode (i : Instr) : (encode i).wf = true := (roundTrip i).1

@[simp] theorem decode_encode (i : Instr) : decode (encode i) = .ok i := (roundTrip i).2

/-! ### The words that are rejected (R93, R95) -/

/-- The fields `zero` and `op` of R90 and R93 together bound the byte's value. -/
theorem wf_cmd_iff (b : Byte) : (CodeWord.cmd b).wf = true ↔ b.toNat < 0x05 := by
  simp only [CodeWord.wf, Bool.and_eq_true, beq_iff_eq, decide_eq_true_eq, ← BitVec.toNat_inj,
    BitVec.extractLsb'_toNat, BitVec.toNat_ofNat, Nat.shiftRight_eq_div_pow]
  omega

/-- The stage codes `110` and `111`. -/
theorem wf_stage_iff (c : Bits 3) : (CodeWord.stage c).wf = true ↔ c.toNat < 6 := by
  simp only [CodeWord.wf, decide_eq_true_eq]
  omega

theorem eq_encode_or_reservedCommand (b : Byte) :
    (∃ i, .cmd b = encode i) ∨ (0x05 ≤ b.toNat ∧ decode (.cmd b) = .error .reservedCommand) := by
  obtain ⟨rfl, -⟩ | ⟨rfl, -⟩ | ⟨rfl, -⟩ | ⟨rfl, -⟩ | ⟨rfl, -⟩ | hreserved := decodeCmd_cases b
  · exact .inl ⟨.nop, rfl⟩
  · exact .inl ⟨.keygen, rfl⟩
  · exact .inl ⟨.enc, rfl⟩
  · exact .inl ⟨.dec, rfl⟩
  · exact .inl ⟨.clr, rfl⟩
  · exact .inr hreserved

theorem encode_stageInstr (st : Stage) : encode (stageInstr st) = .stage (stageCode st) := by
  cases st <;> rfl

/-- A stage code is the code of a stage or one of the two that no rule assigns (R95). -/
theorem stageCode_cases : ∀ c : Bits 3,
    c = stageCode .idle ∨ c = stageCode .ksPc1 ∨ c = stageCode .ksRnd ∨ c = stageCode .blkIp ∨
    c = stageCode .blkRnd ∨ c = stageCode .blkFp ∨
    (6 ≤ c.toNat ∧ decode (.stage c) = .error .unreachableStage) := by
  decide

theorem eq_encode_or_unreachableStage (c : Bits 3) :
    (∃ i, .stage c = encode i) ∨ (6 ≤ c.toNat ∧ decode (.stage c) = .error .unreachableStage) := by
  obtain rfl | rfl | rfl | rfl | rfl | rfl | hunreachable := stageCode_cases c
  case inr.inr.inr.inr.inr.inr => exact .inr hunreachable
  all_goals exact .inl ⟨_, (encode_stageInstr _).symm⟩

/-- A word is the word of an instruction, or it is ill formed and rejected. -/
theorem eq_encode_or_rejected (w : CodeWord) :
    (∃ i, w = encode i) ∨ (w.wf = false ∧ ∃ e, decode w = .error e) := by
  cases w with
  | cmd b =>
    refine (eq_encode_or_reservedCommand b).imp_right fun ⟨hb, hd⟩ => ⟨?_, _, hd⟩
    rw [Bool.eq_false_iff, ne_eq, wf_cmd_iff]
    omega
  | stage c =>
    refine (eq_encode_or_unreachableStage c).imp_right fun ⟨hc, hd⟩ => ⟨?_, _, hd⟩
    rw [Bool.eq_false_iff, ne_eq, wf_stage_iff]
    omega

theorem encode_of_decode {w : CodeWord} {i : Instr} (h : decode w = .ok i) : encode i = w := by
  obtain ⟨j, rfl⟩ | ⟨-, e, he⟩ := eq_encode_or_rejected w
  · rw [decode_encode] at h
    injection h with h
    rw [h]
  · rw [he] at h
    cases h

theorem wf_iff_decodes (w : CodeWord) : w.wf = true ↔ ∃ i, decode w = .ok i := by
  obtain ⟨i, rfl⟩ | ⟨hwf, e, he⟩ := eq_encode_or_rejected w
  · simp
  · simp [hwf, he]

/-- Settles O46: every word is the word of an instruction, or it is ill formed and rejected. -/
theorem decodeAndEncodeAgree : Obligations.DecodeAndEncodeAgree :=
  ⟨decode_encode, fun _ _ => encode_of_decode, wf_iff_decodes⟩

theorem decode_cmd_of_ge {b : Byte} (h : 0x05 ≤ b.toNat) : decode (.cmd b) = .error .reservedCommand := by
  obtain ⟨i, hi⟩ | ⟨-, hd⟩ := eq_encode_or_reservedCommand b
  · have hlt := (wf_cmd_iff b).1 (hi ▸ wf_encode i)
    omega
  · exact hd

theorem decode_stage_of_ge {c : Bits 3} (h : 6 ≤ c.toNat) : decode (.stage c) = .error .unreachableStage := by
  obtain ⟨i, hi⟩ | ⟨-, hd⟩ := eq_encode_or_unreachableStage c
  · have hlt := (wf_stage_iff c).1 (hi ▸ wf_encode i)
    omega
  · exact hd

/-- Settles O47: the legal words are those of their instructions, and the others lie past the last row of their
format. -/
theorem specWordsDecode : Obligations.SpecWordsDecode :=
  ⟨decode_encode .nop, decode_encode .enc, decode_encode .dec, decode_cmd_of_ge (by decide),
    decode_cmd_of_ge (by decide), decode_encode .ksRnd, decode_encode .blkFp, decode_stage_of_ge (by decide)⟩

/-! ### The instruction a step executes (R92, R95) -/

section
variable {s : State} {i : Instr}

theorem step_of_decode_stage (ha : nextAgent s = .sequencer)
    (hd : decode (.stage (stageCode s.stage)) = .ok i) : step s = exec i (popTurn s) := by
  rw [decode_stageCode] at hd
  injection hd with hd
  rw [step_sequencer ha, hd]

theorem step_of_decode_cmd {b : Byte} {rest : List HostOp} (ha : nextAgent s = .host)
    (hp : s.prog = .wr cmdOffset b :: rest) (hs : s.stage = .idle) (hd : decode (.cmd b) = .ok i) :
    step s = exec i (setProg rest (popTurn s)) := by
  have hidle : (setProg rest (popTurn s)).busy = false := (busy_eq_false_iff _).2 hs
  rw [step_of_prog_wr ha hp, memWrite_cmdOffset]
  exact writeCmd_of_ok hidle hd

end

/-- Settles O32, one lemma for each agent that executes instructions. -/
theorem stepRunsTheDecodedInstruction : Obligations.StepRunsTheDecodedInstruction :=
  ⟨fun _ _ => step_of_decode_stage, fun _ _ _ _ => step_of_decode_cmd⟩

end Sys2Proof.Machine
end

section
/-! PROOFS. The bit-sequence primitives (R120 to R126): the byte conversions undo each other, the laws of
`permute`, and those of `rotateLeft`, which is a `permute` whose amounts add modulo the length. -/

namespace Sys2Proof.Machine

open Sys2Proof.Claims

/-! ### Bytes and bits (R120 to R122) -/

/-- R120 in byte order: element `j` of the eight that byte `k` expands to is the byte's own element `j`. -/
theorem getMsbD_bytesToBits_mul_add {m : Nat} (bytes : Vector Byte m) {k j : Nat} (hk : k < m) (hj : j < 8) :
    (bytesToBits bytes).getMsbD (8 * k + j) = bytes[k].getMsbD j := by
  have hdiv : (8 * k + j) / 8 = k := by omega
  have hmod : (8 * k + j) % 8 = j := by omega
  rw [getMsbD_bytesToBits bytes _ (by omega)]
  simp [hdiv, hmod, BitVec.getMsbD, hj]

theorem bitsToBytes_bytesToBits {m : Nat} (bytes : Vector Byte m) : bitsToBytes (bytesToBits bytes) = bytes := by
  ext1 k hk
  refine bits_ext fun j hj => ?_
  rw [getMsbD_bitsToBytes _ k hk j hj, getMsbD_bytesToBits_mul_add bytes hk hj]

theorem bytesToBits_bitsToBytes {m : Nat} (v : Bits (8 * m)) : bytesToBits (bitsToBytes v) = v := by
  refine bits_ext fun i hi => ?_
  have hk : i / 8 < m := by omega
  have hj : i % 8 < 8 := Nat.mod_lt i (by decide)
  rw [← Nat.div_add_mod i 8, getMsbD_bytesToBits_mul_add _ hk hj, getMsbD_bitsToBytes v _ hk _ hj]

/-- Settles O18, byte `k` and element `j` of it at a time. -/
theorem bytesAndBitsConvertBothWays : Obligations.BytesAndBitsConvertBothWays :=
  ⟨fun _ => bitsToBytes_bytesToBits, fun _ => bytesToBits_bitsToBytes⟩

/-! ### The laws of `permute` (R126) -/

/-- `T⟨p⟩` is the element of index `p - 1`. -/
theorem entry_eq_getElem {m : Nat} (t : Vector Nat m) {p : Nat} (h : p - 1 < m) : Tables.entry t p = t[p - 1] := by
  simp [Tables.entry, h]

theorem inRange_iff {n m : Nat} (t : Vector Nat m) :
    Tables.inRange n t = true ↔ ∀ (i : Nat) (_ : i < m), 1 ≤ t[i] ∧ t[i] ≤ n := by
  simp only [Tables.inRange, List.all_eq_true, Bool.and_eq_true, decide_eq_true_eq, Vector.mem_toList_iff,
    Vector.forall_mem_iff_forall_getElem]

/-- The index that an entry in `1..n` selects lies in the sequence. -/
theorem getElem_sub_one_lt {n m : Nat} {t : Vector Nat m} (ht : Tables.inRange n t = true) {i : Nat} (hi : i < m) :
    t[i] - 1 < n := by
  obtain ⟨h1, hn⟩ := (inRange_iff t).1 ht i hi
  omega

section
variable {n m : Nat}

/-- R126 (a); it needs no bound on the entries, since a position outside the sequence reads 0. -/
theorem permute_xorBits (t : Vector Nat m) (a b : Bits n) :
    permute (xorBits a b) t = xorBits (permute a t) (permute b t) := by
  refine bits_ext fun i hi => ?_
  simp only [getMsbD_permute _ _ i hi, getMsbD_xorBits]

theorem permute_zero (t : Vector Nat m) : permute (0#n) t = 0#m := by
  refine bits_ext fun i hi => ?_
  simp [getMsbD_permute _ _ i hi]

theorem permute_not {t : Vector Nat m} (ht : Tables.inRange n t = true) (a : Bits n) :
    permute (~~~a) t = ~~~(permute a t) := by
  refine bits_ext fun i hi => ?_
  simp [getMsbD_permute _ _ i hi, BitVec.getMsbD_not, hi, getElem_sub_one_lt ht hi]

/-- R126 (c): all ones is the complement of all zeros. -/
theorem permute_allOnes {t : Vector Nat m} (ht : Tables.inRange n t = true) :
    permute (BitVec.allOnes n) t = BitVec.allOnes m := by
  rw [← BitVec.not_zero, permute_not ht, permute_zero, BitVec.not_zero]

/-- R126 (d): output position `p` of the second `permute` takes input position `T⟨U⟨p⟩⟩` of the first. -/
theorem permute_permute_of_inverse {t u : Vector Nat n} (hu : Tables.inRange n u = true)
    (htu : ∀ p, 1 ≤ p → p ≤ n → Tables.entry t (Tables.entry u p) = p) (a : Bits n) :
    permute (permute a t) u = a := by
  refine bits_ext fun i hi => ?_
  have hlt : u[i] - 1 < n := getElem_sub_one_lt hu hi
  have hu' : Tables.entry u (i + 1) = u[i] := entry_eq_getElem u hi
  have hpos : t[u[i] - 1] = i + 1 := by
    rw [← entry_eq_getElem t hlt, ← hu', htu (i + 1) (by omega) hi]
  rw [getMsbD_permute _ u i hi, getMsbD_permute a t _ hlt, hpos, Nat.add_sub_cancel]

end

/-! ### Rotations (R125, R126) -/

section
variable {m : Nat}

theorem getElem_rotationTable (k : Nat) {i : Nat} (hi : i < m) : (rotationTable m k)[i] = (i + k) % m + 1 := by
  simp [rotationTable]

theorem inRange_rotationTable (m k : Nat) : Tables.inRange m (rotationTable m k) = true := by
  refine (inRange_iff _).2 fun i hi => ?_
  rw [getElem_rotationTable k hi]
  exact ⟨Nat.le_add_left 1 _, Nat.mod_lt _ (by omega)⟩

theorem rotateLeft_eq_permute (v : Bits m) (k : Nat) : rotateLeft v k = permute v (rotationTable m k) := by
  refine bits_ext fun i hi => ?_
  rw [getMsbD_rotateLeft v k i hi, getMsbD_permute v _ i hi, getElem_rotationTable k hi, Nat.add_sub_cancel]

theorem rotateLeft_zero (v : Bits m) : rotateLeft v 0 = v := by
  refine bits_ext fun i hi => ?_
  rw [getMsbD_rotateLeft v 0 i hi, Nat.add_zero, Nat.mod_eq_of_lt hi]

theorem rotateLeft_rotateLeft (v : Bits m) (a b : Nat) :
    rotateLeft (rotateLeft v a) b = rotateLeft v ((a + b) % m) := by
  refine bits_ext fun i hi => ?_
  have hmod : (i + b) % m < m := Nat.mod_lt _ (by omega)
  have hsum : ((i + b) % m + a) % m = (i + (a + b) % m) % m := by
    rw [Nat.mod_add_mod, Nat.add_mod_mod, Nat.add_assoc, Nat.add_comm b a]
  rw [getMsbD_rotateLeft _ b i hi, getMsbD_rotateLeft v a _ hmod, getMsbD_rotateLeft v _ i hi, hsum]

/-- Rotating by the whole length in total is the identity. -/
theorem rotateLeft_rotateLeft_sub (v : Bits m) {k : Nat} (h : k ≤ m) : rotateLeft (rotateLeft v k) (m - k) = v := by
  rw [rotateLeft_rotateLeft, Nat.add_sub_cancel' h, Nat.mod_self, rotateLeft_zero]

/-- The slice `v[n .. m-1]` comes first. -/
theorem getMsbD_rotateLeft_front (v : Bits m) {n i : Nat} (hi : i < m - n) :
    (rotateLeft v n).getMsbD i = v.getMsbD (n + i) := by
  rw [getMsbD_rotateLeft v n i (by omega), Nat.mod_eq_of_lt (by omega), Nat.add_comm]

/-- The slice `v[0 .. n-1]` comes last. -/
theorem getMsbD_rotateLeft_back (v : Bits m) {n i : Nat} (hn : n < m) (hi : i < n) :
    (rotateLeft v n).getMsbD (m - n + i) = v.getMsbD i := by
  have hwrap : m - n + i + n = i + m := by omega
  rw [getMsbD_rotateLeft v n _ (by omega), hwrap, Nat.add_mod_right, Nat.mod_eq_of_lt (by omega)]

end

/-- Settles O19: the laws of `permute`, then the same laws of a rotation as those of its table. -/
theorem permutationLaws : Obligations.PermutationLaws := by
  refine ⟨fun n m t a b ht => ?_, fun n t u a ht hu h => ?_, fun m k a b hk => ?_⟩
  · exact ⟨permute_xorBits t a b, permute_not ht a, permute_zero t, permute_allOnes ht⟩
  · exact ⟨permute_permute_of_inverse hu (fun p h1 h2 => (h p h1 h2).2) a,
      permute_permute_of_inverse ht (fun p h1 h2 => (h p h1 h2).1) a⟩
  · have hr := inRange_rotationTable m k
    refine ⟨rotateLeft_eq_permute a k, ?_, ?_, ?_, ?_, rotateLeft_rotateLeft_sub a hk.le⟩
    · simp only [rotateLeft_eq_permute, permute_xorBits]
    · simp only [rotateLeft_eq_permute, permute_not hr]
    · rw [rotateLeft_eq_permute, permute_zero]
    · rw [rotateLeft_eq_permute, permute_allOnes hr]

/-- Settles O20: the two slices, and the sum of two rotations. -/
theorem rotationsMoveTheFrontToTheBackAndAdd : Obligations.RotationsMoveTheFrontToTheBackAndAdd :=
  fun _ n v hn =>
    ⟨fun _ => getMsbD_rotateLeft_front v, fun _ => getMsbD_rotateLeft_back v hn, rotateLeft_zero v,
      fun b _ => rotateLeft_rotateLeft v n b⟩

end Sys2Proof.Machine
end

section
/-! PROOFS. The constant tables (R149, R158): one lemma for each condition on the record `tbl`. -/

namespace Sys2Proof.Machine

/-! ### `WF(TBL)` (R149, R158 (a)) -/

/-- The four conditions (a) to (d) of R149. -/
theorem tables_wf_iff (t : Tables) :
    t.wf = true ↔ t.rangesWf = true ∧ t.inverseWf = true ∧ t.sboxWf = true ∧ t.shiftWf = true := by
  simp only [Tables.wf, Bool.and_eq_true, and_assoc]

theorem tbl_rangesWf : tbl.rangesWf = true := by decide

theorem tbl_inverseWf : tbl.inverseWf = true := by decide

theorem tbl_sboxWf : tbl.sboxWf = true := by decide

theorem tbl_shiftWf : tbl.shiftWf = true := by decide

/-- The laws of the cipher, which assume an admissible record, hold of the hardware's tables. -/
theorem tbl_wf : tbl.wf = true :=
  (tables_wf_iff tbl).2 ⟨tbl_rangesWf, tbl_inverseWf, tbl_sboxWf, tbl_shiftWf⟩

/-! ### What R149 does not require of a record (R158 (b)) -/

theorem tbl_p_nodup : tbl.p.toList.Nodup := by decide

/-- Every bit of `R` reaches the round function. -/
theorem mem_tbl_e : ∀ p : Fin 32, p.val + 1 ∈ tbl.e.toList := by decide

theorem tbl_pc1_nodup : tbl.pc1.toList.Nodup := by decide

/-- PC-1 omits the last bit of each key byte and no other (R155). -/
theorem mem_tbl_pc1_iff : ∀ p : Fin 64, p.val + 1 ∈ tbl.pc1.toList ↔ (p.val + 1) % 8 ≠ 0 := by decide

theorem tbl_pc2_nodup : tbl.pc2.toList.Nodup := by decide

/-- The eight positions of `C ‖ D` that PC-2 omits (R156). -/
theorem mem_tbl_pc2_iff : ∀ p : Fin 56,
    p.val + 1 ∈ tbl.pc2.toList ↔ p.val + 1 ∉ [9, 18, 22, 25, 35, 38, 43, 54] := by decide

/-- With the range of the entries (`tbl_sboxWf`), each row is a permutation of `0..15`. -/
theorem tbl_sbox_row_nodup : ∀ (j : Fin 8) (row : Fin 4), tbl.sbox[j][row].toList.Nodup := by decide

/-- Settles O17, table by table; each condition on a printed table is evaluated in a lemma of its own. -/
theorem tablesAreAdmissible : Obligations.TablesAreAdmissible :=
  ⟨tbl_wf, tbl_p_nodup, mem_tbl_e, tbl_pc1_nodup, mem_tbl_pc1_iff, tbl_pc2_nodup, mem_tbl_pc2_iff,
    tbl_sbox_row_nodup⟩

end Sys2Proof.Machine
end

section
/-! PROOFS. The key schedule as a function (R170, R171, R174, R176): the key enters it through PC-1 alone, its
rotations add up to a full turn, and constant sequences stay constant. -/

namespace Sys2Proof.Machine

/-- The range of each permutation table (R149 (a)). -/
theorem rangesWf_iff (t : Tables) :
    t.rangesWf = true ↔ Tables.inRange 64 t.ip = true ∧ Tables.inRange 64 t.fp = true ∧
      Tables.inRange 32 t.e = true ∧ Tables.inRange 32 t.p = true ∧ Tables.inRange 64 t.pc1 = true ∧
      Tables.inRange 56 t.pc2 = true := by
  simp only [Tables.rangesWf, Bool.and_eq_true, and_assoc]

/-! ### Sixteen rotations (R148, R174) -/

/-- The amount by which the first `i` rounds rotate the halves (R148). -/
def shiftSum (t : Tables) (i : Nat) : Nat := (t.shift.toList.take i).sum

theorem shiftSum_succ (t : Tables) (i : Fin 16) : shiftSum t (i.val + 1) = shiftSum t i.val + t.shift[i] := by
  have hi : i.val < t.shift.toList.length := by simp
  rw [shiftSum, shiftSum, List.sum_take_succ _ _ hi]
  simp

/-- The rotation is cumulative (R171). -/
theorem ksHalves_eq_rotateLeft (t : Tables) (key : Bits 64) (i : Nat) (hi : i ≤ 16) :
    ksHalves t key i = (rotateLeft (ksStart t key).1 (shiftSum t i % 28),
      rotateLeft (ksStart t key).2 (shiftSum t i % 28)) := by
  induction i with
  | zero => simp [ksHalves, shiftSum, rotateLeft_zero]
  | succ i ih =>
    have hsucc := ksHalves_succ t key ⟨i, hi⟩
    have hsum := shiftSum_succ t ⟨i, hi⟩
    rw [hsucc, ih (by omega), ksRotate, rotateLeft_rotateLeft, rotateLeft_rotateLeft, Nat.mod_add_mod, ← hsum]

theorem shiftSum_sixteen {t : Tables} (ht : t.shiftWf = true) : shiftSum t 16 = 28 := by
  rw [shiftSum, eq_of_beq ht]
  rfl

/-- Settles O12: the sixteen amounts add up to 28, the length of a half. -/
theorem sixteenRotationsRestoreHalves : Obligations.SixteenRotationsRestoreHalves := by
  intro t key ht
  rw [ksHalves_eq_rotateLeft t key 16 le_rfl, shiftSum_sixteen ht, Nat.mod_self, rotateLeft_zero, rotateLeft_zero]

/-! ### The key bits that PC-1 keeps (R176) -/

theorem permute_congr {n m : Nat} {a b : Bits n} {t : Vector Nat m}
    (h : ∀ i : Fin m, a.getMsbD (t[i] - 1) = b.getMsbD (t[i] - 1)) : permute a t = permute b t := by
  refine bits_ext fun i hi => ?_
  rw [getMsbD_permute a t i hi, getMsbD_permute b t i hi]
  exact h ⟨i, hi⟩

/-- The halves of every round depend on the key through those before round 0 only. -/
theorem ksHalves_congr {t : Tables} {k k' : Bits 64} (h : ksStart t k = ksStart t k') (i : Nat) :
    ksHalves t k i = ksHalves t k' i := by
  induction i with
  | zero => exact h
  | succ i ih => simp only [ksHalves, ih]

theorem ks_congr {t : Tables} {k k' : Bits 64}
    (h : ∀ i : Fin 56, k.getMsbD (t.pc1[i] - 1) = k'.getMsbD (t.pc1[i] - 1)) : ks t k = ks t k' := by
  have hstart : ksStart t k = ksStart t k' := by rw [ksStart, ksStart, permute_congr h]
  have hkey : ksKey t k = ksKey t k' := by
    funext i
    rw [ksKey, ksKey, ksHalves_congr hstart]
  rw [ks, ks, hkey]

/-- The mask of R176 has a one at each position that is not the last of its byte. -/
theorem getMsbD_keyMask : ∀ p : Fin 64, (p.val + 1) % 8 ≠ 0 → (0xFEFEFEFEFEFEFEFE#64).getMsbD p.val = true := by
  decide

/-- PC-1 of this hardware keeps only bits of the mask (R155). -/
theorem getMsbD_keyMask_pc1 (i : Fin 56) : (0xFEFEFEFEFEFEFEFE#64).getMsbD (tbl.pc1[i] - 1) = true := by
  obtain ⟨-, -, -, -, hrange, -⟩ := (rangesWf_iff tbl).1 tbl_rangesWf
  obtain ⟨h1, -⟩ := (inRange_iff tbl.pc1).1 hrange i i.isLt
  refine getMsbD_keyMask ⟨tbl.pc1[i] - 1, getElem_sub_one_lt hrange i.isLt⟩ ((mem_tbl_pc1_iff _).1 ?_)
  simp [Nat.sub_add_cancel h1]

/-- Settles O13: the key enters `KS` through PC-1 (`ks_congr`), which keeps only bits of the mask. -/
theorem discardedKeyBitsAreIgnored : Obligations.DiscardedKeyBitsAreIgnored := by
  refine ⟨fun t k k' h => ?_, fun k k' h => ks_congr fun i => ?_⟩
  · have hks := ks_congr h
    exact ⟨hks, fun b dir => by rw [hks]⟩
  · have hbit := congrArg (BitVec.getMsbD · (tbl.pc1[i] - 1)) h
    simpa only [BitVec.getMsbD_and, getMsbD_keyMask_pc1, Bool.and_true] using hbit

/-! ### Constant keys (R170) -/

section
variable {n m : Nat} (b : Bool)

theorem permute_fill {t : Vector Nat m} (ht : Tables.inRange n t = true) :
    permute (BitVec.fill n b) t = BitVec.fill m b := by
  cases b
  · simp only [BitVec.fill_false, permute_zero]
  · simp only [BitVec.fill_true, permute_allOnes ht]

theorem rotateLeft_fill (k : Nat) : rotateLeft (BitVec.fill m b) k = BitVec.fill m b := by
  rw [rotateLeft_eq_permute, permute_fill b (inRange_rotationTable m k)]

theorem slice_fill {start len : Nat} (h : start + len ≤ n) : slice (BitVec.fill n b) start len = BitVec.fill len b := by
  refine bits_ext fun i hi => ?_
  have hin : start + i < n := by omega
  rw [getMsbD_slice _ _ _ _ hi, BitVec.getMsbD_fill, BitVec.getMsbD_fill, decide_eq_true hin, decide_eq_true hi]

theorem fill_append_fill : BitVec.fill n b ++ BitVec.fill m b = BitVec.fill (n + m) b := by
  refine bits_ext fun i hi => ?_
  rw [BitVec.getMsbD_append]
  split
  · simp [BitVec.getMsbD_fill, hi, show i - n < m by omega]
  · simp [BitVec.getMsbD_fill, hi, show i < n by omega]

end

section
variable {t : Tables} (b : Bool)

theorem ksHalves_fill (h1 : Tables.inRange 64 t.pc1 = true) (i : Nat) :
    ksHalves t (BitVec.fill 64 b) i = (BitVec.fill 28 b, BitVec.fill 28 b) := by
  induction i with
  | zero => simp [ksHalves, ksStart, permute_fill b h1, slice_fill]
  | succ i ih => simp [ksHalves, ksRotate, ih, rotateLeft_fill]

theorem ks_fill (h1 : Tables.inRange 64 t.pc1 = true) (h2 : Tables.inRange 56 t.pc2 = true) (i : Fin 16) :
    (ks t (BitVec.fill 64 b))[i] = BitVec.fill 48 b := by
  have happend : BitVec.fill 28 b ++ BitVec.fill 28 b = BitVec.fill 56 b := fill_append_fill b
  simp [ks, ksKey, ksCompress, ksHalves_fill b h1, happend, permute_fill b h2]

end

/-- Settles O14: the two keys are the two constant sequences (`ks_fill`). -/
theorem constantKeysGiveConstantRoundKeys : Obligations.ConstantKeysGiveConstantRoundKeys := by
  intro t ht i
  obtain ⟨hranges, -, -, -⟩ := (tables_wf_iff t).1 ht
  obtain ⟨-, -, -, -, h1, h2⟩ := (rangesWf_iff t).1 hranges
  exact ⟨ks_fill false h1 h2 i, ks_fill true h1 h2 i⟩

end Sys2Proof.Machine
end

section
/-! PROOFS. The command `KEYGEN` and the stages, each with any tables (R170, R172, R173, R203 to R205): the state
each answers, and the two stages of this hardware's `KEYGEN` element by element. -/

namespace Sys2Proof.Machine

open Sys2Proof.Claims

/-! ### The command (R170) -/

theorem exec_keygen (s : State) :
    exec .keygen s =
      if s.stage = .idle then .next { s with kv := false, stage := .ksPc1 } else .next (raise .eBusy s) :=
  next_whenIdle _ s

/-- The write of `0x01` to `CMD` is the command (R92). -/
theorem memWrite_cmd_keygen (s : State) : memWrite exec 0x18#6 0x01#8 s = exec .keygen s := by
  rw [show (0x18#6 : Offset) = cmdOffset from rfl, memWrite_cmdOffset, exec_keygen]
  split
  case isTrue hs => exact (writeCmd_of_idle _ ((busy_eq_false_iff s).2 hs)).trans ((exec_keygen s).trans (if_pos hs))
  case isFalse hs => exact writeCmd_of_busy (busy_of_stage_ne_idle hs)

/-- Settles O2, by the two cases of `exec_keygen`. -/
theorem keygenStartsKeySchedule : Obligations.KeygenStartsKeySchedule := by
  intro s
  rw [memWrite_cmd_keygen, exec_keygen, and_self, and_self]
  exact ⟨fun hs => if_pos hs, fun hs => if_neg hs⟩

/-! ### The stages with any tables -/

section
variable {t : Tables} {s : State} {n : Fin 16}

theorem stageKsRnd_of_succ (hn : n.val = s.rnd.val + 1) :
    stageKsRnd t s = { s with
      c := (ksRotate t s.rnd (s.c, s.d)).1, d := (ksRotate t s.rnd (s.c, s.d)).2,
      rk := s.rk.set s.rnd (ksCompress t (ksRotate t s.rnd (s.c, s.d))), rnd := n } := by
  obtain ⟨n, hlt⟩ := n
  obtain rfl : n = s.rnd.val + 1 := hn
  exact stageKsRnd_of_lt (by omega)

theorem stageBlkRnd_of_succ (hn : n.val = s.rnd.val + 1) :
    stageBlkRnd t s = { s with l := s.r, r := xorBits s.l (roundF t s.r (roundKey s)), rnd := n } := by
  obtain ⟨n, hlt⟩ := n
  obtain rfl : n = s.rnd.val + 1 := hn
  exact stageBlkRnd_of_lt (by omega)

theorem ridx_eq (dir : Bool) (i : Fin 16) : ridx dir i = if dir then 15 - i else i := by
  revert dir i; decide

/-- The round key of a `BLK_RND` step, in the order of `DIR` (R214). -/
theorem roundKey_eq (s : State) : roundKey s = s.rk[if s.dir then 15 - s.rnd else s.rnd] := by
  simp only [roundKey, ridx_eq]

end

/-- Settles O55: each round stage by its two cases, the three other stages by their definitions. -/
theorem stagesReadTheTablesTheyAreGiven : Obligations.StagesReadTheTablesTheyAreGiven := by
  intro t s
  rw [← roundKey_eq]
  refine ⟨rfl, fun n hn => ?ksRnd, fun hr => ?ksLast, rfl, fun n hn => ?blkRnd, fun hr => ?blkLast, rfl⟩
  case ksRnd => exact congrArg _ (stageKsRnd_of_succ hn)
  case ksLast => exact congrArg _ (stageKsRnd_of_last hr)
  case blkRnd => exact congrArg _ (stageBlkRnd_of_succ hn)
  case blkLast => exact congrArg _ (stageBlkRnd_of_last hr)

/-! ### `KS_PC1` and `KS_RND` element by element -/

/-- Element `p - 1` of a register's bits is the bit at its position `p`; both are 0 outside the register (R65). -/
theorem getMsbD_bytesToBits_eq_registerPosition (reg : Vector Byte 8) (p : Nat) :
    (bytesToBits reg).getMsbD (p - 1) = registerPosition reg p := by
  by_cases hp : p - 1 < 8 * 8
  · simp [getMsbD_bytesToBits reg _ hp, registerPosition, show (p - 1) / 8 < 8 by omega]
  · simp [registerPosition, BitVec.getMsbD_of_ge _ _ (Nat.le_of_not_lt hp), show ¬ (p - 1) / 8 < 8 by omega]

theorem getMsbD_ksStart (t : Tables) (s : State) {i : Nat} (hi : i < 28) :
    (ksStart t (keyBits s)).1.getMsbD i = registerPosition s.key t.pc1[i] ∧
      (ksStart t (keyBits s)).2.getMsbD i = registerPosition s.key t.pc1[28 + i] := by
  simp only [← getMsbD_bytesToBits_eq_registerPosition]
  rw [ksStart, getMsbD_slice _ _ _ _ hi, getMsbD_slice _ _ _ _ hi, getMsbD_permute _ _ _ (by omega),
    getMsbD_permute _ _ _ (by omega)]
  simp [keyBits]

/-- Settles O6: the halves are those that PC-1 gives (`getMsbD_ksStart`). -/
theorem ksPc1SplitsPermutedKey : Obligations.KsPc1SplitsPermutedKey := fun s =>
  ⟨(ksStart tbl (keyBits s)).1, (ksStart tbl (keyBits s)).2, rfl,
    fun i => (getMsbD_ksStart tbl s i.isLt).1, fun i => (getMsbD_ksStart tbl s i.isLt).2⟩

/-- Settles O7: the elements of the two rotations and of the selection, and the two cases of the stage. -/
theorem ksRndRotatesAndStoresOneKey : Obligations.KsRndRotatesAndStoresOneKey := fun s =>
  ⟨rotateLeft s.c tbl.shift[s.rnd], rotateLeft s.d tbl.shift[s.rnd],
    ksCompress tbl (ksRotate tbl s.rnd (s.c, s.d)),
    fun j => getMsbD_rotateLeft s.c _ j j.isLt, fun j => getMsbD_rotateLeft s.d _ j j.isLt,
    fun j => getMsbD_permute _ tbl.pc2 j j.isLt,
    fun _ hn => congrArg _ (stageKsRnd_of_succ hn), fun hr => congrArg _ (stageKsRnd_of_last hr)⟩

end Sys2Proof.Machine
end

section
/-! PROOFS. Runs of a busy KFCC: a host turn changes `EVT` and `IEN` only (R64, R282), so that a command in progress
advances with the sequencer's turns alone, however the host's fall between them (R71). -/

namespace Sys2Proof.Machine

/-- The states agree on every register but `EVT` and `IEN`. -/
def sameButEvents (s u : State) : Prop :=
  u = { s with evt := u.evt, ien := u.ien, prog := u.prog, sched := u.sched, readLog := u.readLog }

section
variable {t : Tables} {s u : State}

/-- A write to a busy KFCC is refused, or acknowledges, or writes `IEN`, or is ignored (R64). -/
theorem memWrite_of_busy {a : Offset} {v : Byte} (hb : s.busy = true)
    (h : memWrite (execFor t) a v s = .next u) : sameButEvents s u ∧ u.sched = s.sched := by
  have hidle : s.busy ≠ false := by simp [hb]
  obtain ⟨-, -, rfl⟩ | ⟨hf, -⟩ | ⟨hf, -⟩ | ⟨hf, -⟩ | ⟨hf, -⟩ | ⟨-, rfl⟩ | ⟨-, rfl⟩ | ⟨-, -, -, -, rfl⟩ :=
    memWrite_cases h
  · exact ⟨rfl, rfl⟩
  · exact absurd hf hidle
  · exact absurd hf hidle
  · exact absurd hf hidle
  · exact absurd hf hidle
  · exact ⟨rfl, rfl⟩
  · exact ⟨rfl, rfl⟩
  · exact ⟨rfl, rfl⟩

theorem stepFor_host_of_busy (ha : nextAgent s = .host) (hb : s.busy = true) :
    ∃ u, stepFor t s = .next u ∧ sameButEvents s u ∧ u.sched = s.sched.tail := by
  rw [stepFor, stepWith_host ha]
  cases hp : s.prog with
  | nil => exact ⟨_, hostTurn_nil (s := popTurn s) hp, rfl, rfl⟩
  | cons op rest =>
    cases op with
    | rd a => exact ⟨_, hostTurn_rd (s := popTurn s) hp, rfl, rfl⟩
    | wait => exact ⟨_, hostTurn_wait (s := popTurn s) hp, rfl, rfl⟩
    | wr a v =>
      obtain ⟨u, hu⟩ := memWrite_next (execFor_next t) a v (setProg rest (popTurn s))
      obtain ⟨hsame, hsched⟩ := memWrite_of_busy (s := setProg rest (popTurn s)) hb hu
      exact ⟨u, (hostTurn_wr (s := popTurn s) hp).trans hu, hsame, hsched⟩

end

/-! ### Runs -/

theorem run_succ_of_step {M : Host.Core} {s u : M.State} (h : M.step s = .next u) (n : Nat) :
    M.run (n + 1) s = M.run n u := by
  simp [Host.Core.run, h]

/-- One step more at the end of a run. -/
theorem run_succ_of_run {M : Host.Core} {n : Nat} {s u : M.State} (h : M.run n s = .next u) :
    M.run (n + 1) s = M.run 1 u := by
  induction n generalizing s with
  | zero => injection h with h; rw [h]
  | succ n ih =>
    cases hs : M.step s with
    | next v => rw [run_succ_of_step hs] at h ⊢; exact ih h
    | fault e => simp [Host.Core.run, hs] at h
    | refused e => simp [Host.Core.run, hs] at h

/-- `P k` is a command in progress after `k` of its sequencer steps: it lasts through the host's turns, and each of
the first `N` sequencer turns takes it one step further. -/
structure AdvancesBySequencer (t : Tables) (N : Nat) (P : Nat → State → Prop) : Prop where
  busy {k : Nat} {u : State} (h : P k u) : u.busy = true
  host {k : Nat} {u v : State} (h : P k u) (hv : sameButEvents u v) : P k v
  sequencer {k : Nat} {u : State} (h : P k u) (hk : k < N) :
    ∃ v, execFor t (stageInstr u.stage) (popTurn u) = .next v ∧ P (k + 1) v ∧ v.sched = u.sched.tail

section
variable {t : Tables} {N : Nat} {P : Nat → State → Prop}

/-- R71: after `n` turns of a schedule without reset the command has come as far as they hold sequencer turns. -/
theorem AdvancesBySequencer.run (hP : AdvancesBySequencer t N P) {turns tail : List Agent} {k : Nat} {u : State}
    (hu : P k u) (hs : u.sched = turns ++ tail) (hp : .platform ∉ turns)
    (hN : k + turns.count .sequencer ≤ N) {n : Nat} (hn : n ≤ turns.length) :
    ∃ v, (coreFor t).run n u = .next v ∧ P (k + (turns.take n).count .sequencer) v ∧
      v.sched = turns.drop n ++ tail := by
  induction turns generalizing n k u with
  | nil =>
    obtain rfl : n = 0 := Nat.le_zero.1 hn
    exact ⟨u, rfl, hu, hs⟩
  | cons a turns ih =>
    cases n with
    | zero => exact ⟨u, rfl, hu, hs⟩
    | succ n =>
      have ha : nextAgent u = a := nextAgent_of_cons hs
      have htail : u.sched.tail = turns ++ tail := by rw [hs]; rfl
      have hp' : .platform ∉ turns := fun h => hp (List.mem_cons_of_mem a h)
      have hn' : n ≤ turns.length := Nat.le_of_succ_le_succ hn
      cases a with
      | platform => exact absurd List.mem_cons_self hp
      | host =>
        obtain ⟨v, hstep, hsame, hsched⟩ := stepFor_host_of_busy (t := t) ha (hP.busy hu)
        rw [run_succ_of_step (M := coreFor t) hstep]
        simpa using ih (hP.host hu hsame) (hsched.trans htail) hp' (by simpa using hN) hn'
      | sequencer =>
        simp only [List.count_cons_self] at hN
        obtain ⟨v, hstep, hv, hsched⟩ := hP.sequencer hu (by omega)
        rw [run_succ_of_step (M := coreFor t) ((stepWith_sequencer ha).trans hstep)]
        simpa [Nat.add_comm, Nat.add_left_comm] using ih hv (hsched.trans htail) hp' (by omega) hn'

end

end Sys2Proof.Machine
end

section
/-! PROOFS. The run of a `KEYGEN` (R170, R178): after each of its sequencer steps the halves and the round keys
written so far are those of `KS`, and the registers that are not its own are as they were. -/

namespace Sys2Proof.Machine

/-- The registers that a `KEYGEN` leaves alone, but for `EVT` and `IEN`, which the host may write meanwhile. -/
def keygenFrame (s : State) :
    Vector Byte 8 × Vector Byte 8 × Vector Byte 8 × Bool × Bits 32 × Bits 32 × Bool :=
  (s.key, s.din, s.dout, s.ov, s.l, s.r, s.dir)

/-- R178: before round `RND` the halves and the entries below `RND` are those of `KS`. -/
def ksProgress (t : Tables) (key : Bits 64) (u : State) : Prop :=
  (u.c, u.d) = ksHalves t key u.rnd.val ∧ ∀ j : Fin 16, j < u.rnd → u.rk[j] = ksKey t key j

/-- The position of a `KEYGEN` after `k` of its sequencer steps, and what it has computed by then. -/
def keygenAt (t : Tables) (key : Bits 64) : Nat → State → Prop
  | 0, u => u.stage = .ksPc1
  | i + 1, u => u.stage = .ksRnd ∧ u.rnd.val = i ∧ ksProgress t key u

/-- A `KEYGEN` that was accepted in state `s` has taken `k` sequencer steps and stands in `u`. -/
structure KeygenRuns (t : Tables) (s : State) (k : Nat) (u : State) : Prop where
  kv : u.kv = false
  frame : keygenFrame u = keygenFrame s
  position : keygenAt t (keyBits s) k u

section
variable {t : Tables} {key : Bits 64} {s u : State} {k : Nat}

theorem keyBits_of_keygenFrame (h : keygenFrame u = keygenFrame s) : keyBits u = keyBits s := by
  have hkey : u.key = s.key := congrArg Prod.fst h
  rw [keyBits, keyBits, hkey]

/-! ### One round -/

theorem ksProgress.ksRotate_eq (h : ksProgress t key u) :
    ksRotate t u.rnd (u.c, u.d) = ksHalves t key (u.rnd.val + 1) := by
  rw [ksHalves_succ, h.1]

theorem ksProgress.rk_set_eq (h : ksProgress t key u) (j : Fin 16) (hj : j ≤ u.rnd) :
    (u.rk.set u.rnd (ksCompress t (ksRotate t u.rnd (u.c, u.d))))[j] = ksKey t key j := by
  rw [h.ksRotate_eq]
  exact set_ksKey_of_le h.2 j hj

/-- A round before the last leaves the progress of the next round. -/
theorem ksProgress.round (h : ksProgress t key u) {n : Fin 16} (hn : n.val = u.rnd.val + 1) :
    ksProgress t key (stageKsRnd t u) := by
  rw [stageKsRnd_of_succ hn]
  refine ⟨?_, fun j hj => h.rk_set_eq j (by simp only [Fin.lt_def] at hj; omega)⟩
  rw [hn]; exact h.ksRotate_eq

/-! ### The steps of the command -/

theorem KeygenRuns.busy (h : KeygenRuns t s k u) : u.busy = true := by
  refine busy_of_stage_ne_idle fun hs => ?_
  cases k with
  | zero => exact absurd (hs.symm.trans h.position) (by decide)
  | succ i => exact absurd (hs.symm.trans h.position.1) (by decide)

theorem KeygenRuns.host {v : State} (h : KeygenRuns t s k u) (hv : sameButEvents u v) : KeygenRuns t s k v := by
  rw [hv]
  refine ⟨h.kv, h.frame, ?_⟩
  cases k with
  | zero => exact h.position
  | succ i => exact h.position

theorem KeygenRuns.sequencer (h : KeygenRuns t s k u) (hk : k < 16) :
    ∃ v, execFor t (stageInstr u.stage) (popTurn u) = .next v ∧ KeygenRuns t s (k + 1) v ∧
      v.sched = u.sched.tail := by
  obtain ⟨hkv, hframe, hpos⟩ := h
  cases k with
  | zero =>
    have hstage : u.stage = .ksPc1 := hpos
    rw [hstage]
    refine ⟨stageKsPc1 t (popTurn u), rfl, ⟨hkv, hframe, rfl, rfl, ?_, fun j hj => ?_⟩, rfl⟩
    case refine_2 => exact absurd hj (Nat.not_lt_zero j.val)
    rw [← keyBits_of_keygenFrame hframe]; rfl
  | succ i =>
    obtain ⟨hstage, hrnd, hprog⟩ := hpos
    have hn : (⟨i + 1, hk⟩ : Fin 16).val = (popTurn u).rnd.val + 1 := congrArg (· + 1) hrnd.symm
    have hnext : ksProgress t (keyBits s) (stageKsRnd t (popTurn u)) :=
      ksProgress.round (u := popTurn u) hprog hn
    rw [hstage]
    refine ⟨stageKsRnd t (popTurn u), rfl, ?_⟩
    rw [stageKsRnd_of_succ hn] at hnext ⊢
    exact ⟨⟨hkv, hframe, hstage, rfl, hnext⟩, rfl⟩

theorem advancesBySequencer_keygen (t : Tables) (s : State) : AdvancesBySequencer t 16 (KeygenRuns t s) :=
  ⟨KeygenRuns.busy, KeygenRuns.host, KeygenRuns.sequencer⟩

/-- The host step that accepts a `KEYGEN` (R170). -/
theorem stepFor_keygen {rest : List HostOp} (ha : nextAgent s = .host) (hs : s.stage = .idle)
    (hp : s.prog = .wr 0x18#6 0x01#8 :: rest) :
    ∃ u, stepFor t s = .next u ∧ KeygenRuns t s 0 u ∧ u.sched = s.sched.tail := by
  have hidle : (setProg rest (popTurn s)).busy = false := (busy_eq_false_iff _).2 hs
  refine ⟨{ setProg rest (popTurn s) with kv := false, stage := .ksPc1 }, ?_, ⟨rfl, rfl, rfl⟩, rfl⟩
  calc stepFor t s = memWrite (execFor t) cmdOffset 0x01#8 (setProg rest (popTurn s)) :=
        (stepWith_host ha).trans (hostTurn_wr (s := popTurn s) hp)
    _ = execFor t .keygen (setProg rest (popTurn s)) :=
        (memWrite_cmdOffset _ _).trans (writeCmd_of_ok hidle (decode_encode .keygen))
    _ = .next (whenIdle (fun s => { s with kv := false, stage := .ksPc1 }) (setProg rest (popTurn s))) := rfl
    _ = _ := by rw [whenIdle_of_idle hidle]

/-- The halves of PC-1 joined again (R171). -/
theorem ksStart_append (t : Tables) (key : Bits 64) :
    (ksStart t key).1 ++ (ksStart t key).2 = permute key t.pc1 := by
  refine bits_ext fun i hi => ?_
  rw [BitVec.getMsbD_append]
  split
  case isTrue h => rw [ksStart, getMsbD_slice _ _ _ _ (by omega), Nat.add_sub_cancel' h]
  case isFalse h => rw [ksStart, getMsbD_slice _ _ _ _ (by omega), Nat.zero_add]

/-- The seventeenth step of a `KEYGEN` completes it (R173, R174). -/
theorem KeygenRuns.completes (h : KeygenRuns t s 16 u) (ht : t.wf = true) (ha : nextAgent u = .sequencer) :
    ∃ v, stepFor t u = .next v ∧ v.stage = .idle ∧ v.rnd = 0 ∧ v.kv = true ∧ v.evt.getLsbD 0 = true ∧
      v.rk = ks t (keyBits s) ∧ v.c ++ v.d = permute (keyBits s) t.pc1 ∧ keygenFrame v = keygenFrame s := by
  obtain ⟨-, hframe, hstage, hrnd, hprog⟩ := h
  obtain ⟨-, -, -, hshift⟩ := (tables_wf_iff t).1 ht
  have hlast : u.rnd = 15 := Fin.ext hrnd
  have hcd : ksRotate t u.rnd (u.c, u.d) = ksStart t (keyBits s) := by
    rw [hprog.ksRotate_eq, hrnd]; exact sixteenRotationsRestoreHalves t _ hshift
  refine ⟨stageKsRnd t (popTurn u), (stepWith_sequencer ha).trans (by rw [hstage]; rfl), ?_⟩
  rw [stageKsRnd_of_last (s := popTurn u) hlast]
  refine ⟨rfl, rfl, rfl, getLsbD_or_eventMask u.evt .kdone, ?rk, ?cd, hframe⟩
  case rk => exact eq_ks_of_forall fun j => hprog.rk_set_eq j (by omega)
  case cd =>
    rw [← ksStart_append, ← hcd]; rfl

end

/-- Settles O44: the accepting host step, the turns up to the last (`AdvancesBySequencer.run`), and the last. -/
theorem keygenComputesTheKeySchedule : Obligations.KeygenComputesTheKeySchedule := by
  intro t s rest turns ht hs hp hsched hplat hcount
  have hlen : s.sched.length = turns.length + 1 + 1 := by simp [hsched]
  obtain ⟨u, hstart, hu, husched⟩ := stepFor_keygen (t := t) (nextAgent_of_cons hsched) hs hp
  have hrun : ∀ n, (coreFor t).run (n + 1) s = (coreFor t).run n u := run_succ_of_step (M := coreFor t) hstart
  have hprogress : ∀ n ≤ turns.length, ∃ v, (coreFor t).run n u = .next v ∧
      KeygenRuns t s (0 + (turns.take n).count .sequencer) v ∧ v.sched = turns.drop n ++ [.sequencer] :=
    fun n hn => (advancesBySequencer_keygen t s).run hu (by rw [husched, hsched]; rfl) hplat (by omega) hn
  constructor
  case left =>
    intro n w hpos hn hw
    obtain ⟨m, rfl⟩ := Nat.exists_eq_succ_of_ne_zero hpos.ne'
    obtain ⟨v, hv, hruns, -⟩ := hprogress m (by omega)
    obtain rfl : v = w := by simpa [hrun, hv] using hw
    exact ⟨hruns.busy, hruns.kv⟩
  case right =>
    obtain ⟨v, hv, hruns, hvsched⟩ := hprogress turns.length le_rfl
    rw [List.take_length, hcount] at hruns
    rw [List.drop_length, List.nil_append] at hvsched
    obtain ⟨w, hw, hstage, hrnd, hkv, hevt, hrk, hcd, hframe⟩ := hruns.completes ht (nextAgent_of_cons hvsched)
    simp only [keygenFrame, Prod.mk.injEq] at hframe
    refine ⟨w, ?_, hstage, hrnd, hkv, hevt, hrk, hcd, hframe⟩
    rw [hlen, hrun, run_succ_of_run hv]
    exact run_succ_of_step (M := coreFor t) hw 0

end Sys2Proof.Machine
end

section
/-! PROOFS. The commands `ENC` and `DEC` and the stages of a block command, one register at a time (R200, R201,
R203 to R205, R210 to R214). -/

namespace Sys2Proof.Machine

open Sys2Proof.Claims

/-! ### The commands (R200, R201) -/

section
variable (t : Tables) (dir : Bool) (s : State)

theorem execFor_block :
    execFor t (if dir then .dec else .enc) s = .next (whenIdle (startBlock dir) s) := by
  cases dir <;> rfl

theorem decodeCmd_block :
    decodeCmd (if dir then 0x03#8 else 0x02#8) = .ok (if dir then .dec else .enc) := by
  revert dir; decide

/-- The write of `0x02` or `0x03` to `CMD` is the command (R92). -/
theorem memWrite_cmd_block :
    memWrite (execFor t) 0x18#6 (if dir then 0x03#8 else 0x02#8) s = .next (whenIdle (startBlock dir) s) := by
  rw [show (0x18#6 : Offset) = cmdOffset from rfl, memWrite_cmdOffset]
  cases hb : s.busy with
  | true => rw [writeCmd_of_busy hb, whenIdle_of_busy hb]
  | false => rw [writeCmd_of_ok hb (decodeCmd_block dir), execFor_block]

end

/-- Settles O3: in an idle state the effect is `startBlock`, which asks for a valid key. -/
theorem blockCommandsStartOrRefuse : Obligations.BlockCommandsStartOrRefuse := by
  intro s dir
  rw [exec_eq_execFor_tbl]
  simp only [execFor_block, memWrite_cmd_block, next_whenIdle, and_self]
  refine ⟨fun hs hkv => ?_, fun hs hkv => ?_, fun hs => ?_⟩
  · rw [if_pos hs, startBlock_of_kv hkv]
  · rw [if_pos hs, startBlock_of_not_kv hkv]; rfl
  · rw [if_neg hs]; rfl

/-! ### `BLK_IP` and `BLK_FP` element by element -/

theorem getMsbD_blkStart (t : Tables) (s : State) {i : Nat} (hi : i < 32) :
    (blkStart t (dinBits s)).1.getMsbD i = registerPosition s.din t.ip[i] ∧
      (blkStart t (dinBits s)).2.getMsbD i = registerPosition s.din t.ip[32 + i] := by
  simp only [← getMsbD_bytesToBits_eq_registerPosition]
  rw [blkStart, getMsbD_slice _ _ _ _ hi, getMsbD_slice _ _ _ _ hi, getMsbD_permute _ _ _ (by omega),
    getMsbD_permute _ _ _ (by omega)]
  simp [dinBits]

/-- Settles O8: the halves are those that IP gives (`getMsbD_blkStart`). -/
theorem blkIpSplitsPermutedBlock : Obligations.BlkIpSplitsPermutedBlock := fun s =>
  ⟨(blkStart tbl (dinBits s)).1, (blkStart tbl (dinBits s)).2, rfl,
    fun i => (getMsbD_blkStart tbl s i.isLt).1, fun i => (getMsbD_blkStart tbl s i.isLt).2⟩

/-- The bit at position `p` of the bytes of a block is its element `p - 1` (R65, R122). -/
theorem registerPosition_bitsToBytes (v : Bits (8 * 8)) (p : Nat) :
    registerPosition (bitsToBytes v) p = v.getMsbD (p - 1) := by
  rw [← getMsbD_bytesToBits_eq_registerPosition, bytesToBits_bitsToBytes]

/-- Settles O10: the output block is the FP selection of `R ‖ L`, byte by byte. -/
theorem blkFpDeliversOutputBlock : Obligations.BlkFpDeliversOutputBlock := fun s =>
  ⟨bitsToBytes (m := 8) (blkFinish tbl (s.l, s.r)), rfl, fun i =>
    (registerPosition_bitsToBytes _ _).trans (getMsbD_permute _ tbl.fp i i.isLt)⟩

/-! ### `BLK_RND` (R210, R214) -/

/-- `j` is the key index of a round when it is `RND`, or `15 - RND` for `DEC` (R214). -/
theorem eq_ridx_of_val {dir : Bool} {i j : Fin 16} (hj : j.val = if dir then 15 - i.val else i.val) :
    j = ridx dir i := by
  cases dir <;> exact Fin.ext hj

/-- Settles O9, by the two cases of the stage. -/
theorem blkRndIsOneFeistelRound : Obligations.BlkRndIsOneFeistelRound := by
  intro s j hj
  obtain rfl := eq_ridx_of_val hj
  exact ⟨fun n hn => congrArg _ (stageBlkRnd_of_succ hn), fun hr => congrArg _ (stageBlkRnd_of_last hr)⟩

end Sys2Proof.Machine
end

section
/-! PROOFS. The round function element by element (R206 to R211): what `SUB` says of one output bit, and the
number that its four bits of a chunk are. -/

namespace Sys2Proof.Machine

section
variable {t : Tables}

/-- Every entry of an S-box fits in four bits (R149 (c)). -/
theorem sbox_entry_le (ht : t.sboxWf = true) (j : Fin 8) (row : Fin 4) (col : Fin 16) :
    t.sbox[j][row][col] ≤ 15 := by
  simp only [Tables.sboxWf, List.all_eq_true, decide_eq_true_eq, Vector.mem_toList_iff] at ht
  exact ht _ (Vector.getElem_mem j.isLt) _ (Vector.getElem_mem row.isLt) _ (Vector.getElem_mem col.isLt)

theorem sboxOut_toNat (ht : t.sboxWf = true) (j : Fin 8) (c : Bits 6) :
    (sboxOut t j c).toNat = t.sbox[j][sboxRow c][sboxCol c] := by
  have hle := sbox_entry_le ht j (sboxRow c) (sboxCol c)
  rw [sboxOut, BitVec.toNat_ofNat, Nat.mod_eq_of_lt (by omega)]

/-- Output bits `4j .. 4j+3` of `SUB` are those of chunk `j` through `SBOX[j]` (R208). -/
theorem getMsbD_sub (t : Tables) (x : Bits 48) (j : Fin 8) {m : Nat} (hm : m < 4) :
    (sub t x).getMsbD (4 * j.val + m) = (sboxOut t j (slice x (6 * j.val) 6)).getMsbD m := by
  have hdiv : (4 * j.val + m) / 4 = j.val := by omega
  have hmod : (4 * j.val + m) % 4 = m := by omega
  have hlt : 4 * j.val + m < 32 := by omega
  simp [sub, BitVec.getMsbD_ofFnBE, hlt, hdiv, hmod]

end

/-- Four bits as a number, most significant first (R11). -/
theorem toNat_eq_of_four_bits : ∀ w : Bits 4,
    8 * (w.getMsbD 0).toNat + 4 * (w.getMsbD 1).toNat + 2 * (w.getMsbD 2).toNat + (w.getMsbD 3).toNat
      = w.toNat := by
  decide

section
variable {x : Bits 48} {j : Fin 8}

theorem eq_sboxRow {row : Fin 4}
    (h : row.val = 2 * (x.getMsbD (6 * j.val)).toNat + (x.getMsbD (6 * j.val + 5)).toNat) :
    row = sboxRow (slice x (6 * j.val) 6) :=
  Fin.ext (by simp [h, sboxRow, getMsbD_slice])

theorem eq_sboxCol {col : Fin 16}
    (h : col.val = 8 * (x.getMsbD (6 * j.val + 1)).toNat + 4 * (x.getMsbD (6 * j.val + 2)).toNat
      + 2 * (x.getMsbD (6 * j.val + 3)).toNat + (x.getMsbD (6 * j.val + 4)).toNat) :
    col = sboxCol (slice x (6 * j.val) 6) :=
  Fin.ext (by simp [h, sboxCol, getMsbD_slice])

/-- The four output bits of chunk `j` are the number that its S-box gives (R208). -/
theorem sub_chunk {t : Tables} (ht : t.sboxWf = true) :
    8 * ((sub t x).getMsbD (4 * j.val)).toNat + 4 * ((sub t x).getMsbD (4 * j.val + 1)).toNat
      + 2 * ((sub t x).getMsbD (4 * j.val + 2)).toNat + ((sub t x).getMsbD (4 * j.val + 3)).toNat
      = t.sbox[j][sboxRow (slice x (6 * j.val) 6)][sboxCol (slice x (6 * j.val) 6)] := by
  rw [← sboxOut_toNat ht, ← toNat_eq_of_four_bits, ← getMsbD_sub t x j (m := 0) (by decide),
    ← getMsbD_sub t x j (m := 1) (by decide), ← getMsbD_sub t x j (m := 2) (by decide),
    ← getMsbD_sub t x j (m := 3) (by decide)]
  rfl

end

/-- Settles O11: `x` is the input of `SUB`, and `y` its output. -/
theorem roundFunctionElementwise : Obligations.RoundFunctionElementwise := by
  intro t r k ht
  obtain ⟨-, -, hsbox, -⟩ := (tables_wf_iff t).1 ht
  refine ⟨xorBits (permute r t.e) k, sub t (xorBits (permute r t.e) k), fun i => ?x, fun j row col hrow hcol => ?y,
    fun i => getMsbD_permute _ t.p i i.isLt⟩
  case x => rw [getMsbD_xorBits, getMsbD_permute r t.e i i.isLt]; rfl
  case y => rw [eq_sboxRow hrow, eq_sboxCol hcol]; exact sub_chunk hsbox

end Sys2Proof.Machine
end

section
/-! PROOFS. Two laws of the block function: with the round keys reversed it undoes itself (R215), and it commutes
with complementing the block and the round keys, hence the key (R218). -/

namespace Sys2Proof.Machine

open Sys2Proof.Claims

/-! ### Slices and joins -/

section
variable {n m : Nat}

theorem slice_append_left (a : Bits n) (b : Bits m) : slice (a ++ b) 0 n = a := by
  refine bits_ext fun i hi => ?_
  rw [getMsbD_slice _ _ _ _ hi, BitVec.getMsbD_append, Nat.zero_add, if_neg (by omega)]

theorem slice_append_right (a : Bits n) (b : Bits m) : slice (a ++ b) n m = b := by
  refine bits_ext fun i hi => ?_
  rw [getMsbD_slice _ _ _ _ hi, BitVec.getMsbD_append, if_pos (by omega), Nat.add_sub_cancel_left]

theorem slice_append_slice (w : Bits (n + m)) : slice w 0 n ++ slice w n m = w := by
  refine bits_ext fun i hi => ?_
  rw [BitVec.getMsbD_append]
  split
  case isTrue h => rw [getMsbD_slice _ _ _ _ (by omega), Nat.add_sub_cancel' h]
  case isFalse h => rw [getMsbD_slice _ _ _ _ (by omega), Nat.zero_add]

end

/-! ### Reversed round keys (R215) -/

section
variable {t : Tables}

/-- IP and FP undo each other (R126 (d), R142, R149 (b)). -/
theorem permute_ip_fp (ht : t.wf = true) (v : Bits 64) :
    permute (permute v t.ip) t.fp = v ∧ permute (permute v t.fp) t.ip = v := by
  obtain ⟨hranges, hinv, -, -⟩ := (tables_wf_iff t).1 ht
  obtain ⟨hip, hfp, -⟩ := (rangesWf_iff t).1 hranges
  have hentry : ∀ p, 1 ≤ p → p ≤ 64 →
      Tables.entry t.fp (Tables.entry t.ip p) = p ∧ Tables.entry t.ip (Tables.entry t.fp p) = p := by
    intro p h1 h64
    have hp := List.all_eq_true.1 hinv (p - 1) (List.mem_range.2 (by omega))
    simpa [Nat.sub_add_cancel h1] using hp
  exact ⟨permute_permute_of_inverse hfp (fun p h1 h2 => (hentry p h1 h2).2) v,
    permute_permute_of_inverse hip (fun p h1 h2 => (hentry p h1 h2).1) v⟩

/-- BLOCK ends on `R ‖ L`, so a second one starts from the exchanged halves. -/
theorem blkStart_blkFinish (ht : t.wf = true) (lr : Bits 32 × Bits 32) :
    blkStart t (blkFinish t lr) = lr.swap := by
  rw [blkStart, blkFinish, (permute_ip_fp ht _).2]
  exact Prod.ext (slice_append_left lr.2 lr.1) (slice_append_right lr.2 lr.1)

theorem blkFinish_swap_blkStart (ht : t.wf = true) (b : Bits 64) : blkFinish t (blkStart t b).swap = b := by
  have hjoin : ∀ w : Bits 64, slice w 0 32 ++ slice w 32 32 = w := slice_append_slice (n := 32) (m := 32)
  rw [blkFinish, blkStart, Prod.fst_swap, Prod.snd_swap, hjoin]
  exact (permute_ip_fp ht b).1

/-- A round on exchanged halves undoes the round with the same key, whatever `F` is (R210, R215). -/
theorem feistel_swap_feistel (t : Tables) (k : Bits 48) (lr : Bits 32 × Bits 32) :
    feistel t k (feistel t k lr).swap = lr.swap :=
  Prod.ext rfl (xor_cancel_right lr.1 (roundF t lr.2 k))

theorem getElem_reversedKeys (keys : Vector (Bits 48) 16) (i : Fin 16) :
    (reversedKeys keys)[i] = keys[15 - i.val] := by
  simp [reversedKeys]

theorem reversedKeys_reversedKeys (keys : Vector (Bits 48) 16) : reversedKeys (reversedKeys keys) = keys := by
  ext1 i hi
  simp [reversedKeys, show 15 - (15 - i) = i by omega]

/-- The halves run backwards: after `i` rounds of the second BLOCK they are those before the last `i` rounds of the
first, exchanged. -/
theorem blkHalves_reversedKeys (ht : t.wf = true) (b : Bits 64) (keys : Vector (Bits 48) 16) (i : Nat)
    (hi : i ≤ 16) :
    blkHalves t (block t b keys) (reversedKeys keys) i = (blkHalves t b keys (16 - i)).swap := by
  induction i with
  | zero => exact blkStart_blkFinish ht _
  | succ i ih =>
    have hsecond := blkHalves_succ t (block t b keys) (reversedKeys keys) ⟨i, hi⟩
    have hfirst := blkHalves_succ t b keys ⟨15 - i, by omega⟩
    have hk : 15 - i + 1 = 16 - i := by omega
    simp only [hk] at hfirst
    rw [hsecond, ih (by omega), getElem_reversedKeys, hfirst, show 16 - (i + 1) = 15 - i by omega]
    exact feistel_swap_feistel t _ _

theorem block_reversedKeys (ht : t.wf = true) (b : Bits 64) (keys : Vector (Bits 48) 16) :
    block t (block t b keys) (reversedKeys keys) = b := by
  rw [block, blkHalves_reversedKeys ht b keys 16 le_rfl]
  exact blkFinish_swap_blkStart ht b

end

/-- Settles O15: the one order is `block_reversedKeys`, the other the same for the reversed keys. -/
theorem reversedKeysInvertTheBlockFunction : Obligations.ReversedKeysInvertTheBlockFunction := by
  intro t keys b ht
  have hback := block_reversedKeys ht b (reversedKeys keys)
  rw [reversedKeys_reversedKeys] at hback
  exact ⟨block_reversedKeys ht b keys, hback⟩

/-! ### Complements (R218) -/

section
variable {n m : Nat}

theorem slice_not (v : Bits n) {start len : Nat} (h : start + len ≤ n) :
    slice (~~~v) start len = ~~~(slice v start len) := by
  refine bits_ext fun i hi => ?_
  simp [getMsbD_slice _ _ _ _ hi, BitVec.getMsbD_not, hi, show start + i < n by omega]

theorem rotateLeft_not (v : Bits m) (k : Nat) : rotateLeft (~~~v) k = ~~~(rotateLeft v k) := by
  simp only [rotateLeft_eq_permute, permute_not (inRange_rotationTable m k)]

/-- The complement of a pair of halves. -/
def notHalves (h : Bits n × Bits n) : Bits n × Bits n := (~~~h.1, ~~~h.2)

/-- The halves of the complement of a sequence. -/
theorem slices_not (v : Bits (n + n)) :
    (slice (~~~v) 0 n, slice (~~~v) n n) = notHalves (slice v 0 n, slice v n n) :=
  Prod.ext (slice_not v (by omega)) (slice_not v (by omega))

end

section
variable {t : Tables}

theorem ksHalves_not (h1 : Tables.inRange 64 t.pc1 = true) (key : Bits 64) (i : Nat) :
    ksHalves t (~~~key) i = notHalves (ksHalves t key i) := by
  induction i with
  | zero =>
    simp only [ksHalves, ksStart, permute_not h1]
    exact slices_not (n := 28) _
  | succ i ih =>
    simp only [ksHalves, ih]
    split
    · exact Prod.ext (rotateLeft_not _ _) (rotateLeft_not _ _)
    · rfl

/-- Every round key of the complemented key is the complement (R174, R218). -/
theorem ksKey_not (h1 : Tables.inRange 64 t.pc1 = true) (h2 : Tables.inRange 56 t.pc2 = true) (key : Bits 64)
    (i : Fin 16) : ksKey t (~~~key) i = ~~~(ksKey t key i) := by
  rw [ksKey, ksKey, ksHalves_not h1, ksCompress, ksCompress, notHalves, ← BitVec.not_append]
  exact permute_not h2 _

/-- Two complements under an xor cancel. -/
theorem xorBits_not_not {n : Nat} (a b : Bits n) : xorBits (~~~a) (~~~b) = xorBits a b := by
  rw [xorBits, xorBits, ← BitVec.not_xor_left, ← BitVec.not_xor_right, BitVec.not_not]

/-- The complements of half and key cancel before the S-boxes (R209). -/
theorem roundF_not (he : Tables.inRange 32 t.e = true) (r : Bits 32) (k : Bits 48) :
    roundF t (~~~r) (~~~k) = roundF t r k := by
  rw [roundF, roundF, permute_not he, xorBits_not_not]

theorem feistel_not (he : Tables.inRange 32 t.e = true) (k : Bits 48) (lr : Bits 32 × Bits 32) :
    feistel t (~~~k) (notHalves lr) = notHalves (feistel t k lr) := by
  refine Prod.ext rfl ?_
  simp only [feistel, notHalves, roundF_not he]
  exact BitVec.not_xor_left.symm

theorem blkHalves_not (hip : Tables.inRange 64 t.ip = true) (he : Tables.inRange 32 t.e = true)
    {keys keys' : Vector (Bits 48) 16} (hk : ∀ i : Fin 16, keys'[i] = ~~~keys[i]) (b : Bits 64) (i : Nat) :
    blkHalves t (~~~b) keys' i = notHalves (blkHalves t b keys i) := by
  induction i with
  | zero =>
    simp only [blkHalves, blkStart, permute_not hip]
    exact slices_not (n := 32) _
  | succ i ih =>
    simp only [blkHalves, ih]
    split
    case isTrue h => rw [show keys'[i] = ~~~keys[i] from hk ⟨i, h⟩]; exact feistel_not he _ _
    case isFalse => rfl

theorem blkFinish_not (hfp : Tables.inRange 64 t.fp = true) (lr : Bits 32 × Bits 32) :
    blkFinish t (notHalves lr) = ~~~(blkFinish t lr) := by
  rw [blkFinish, blkFinish, notHalves, ← BitVec.not_append]
  exact permute_not hfp _

end

/-- Settles O16: complementing the key complements every round key (`ksKey_not`), in either order. -/
theorem complementingKeyAndBlockComplementsOutput : Obligations.ComplementingKeyAndBlockComplementsOutput := by
  intro t key b dir ht
  obtain ⟨hranges, -, -, -⟩ := (tables_wf_iff t).1 ht
  obtain ⟨hip, hfp, he, -, h1, h2⟩ := (rangesWf_iff t).1 hranges
  have hkeys : ∀ i : Fin 16, (keyOrder dir (ks t (~~~key)))[i] = ~~~(keyOrder dir (ks t key))[i] := by
    intro i
    simp [keyOrder, ks, ksKey_not h1 h2]
  rw [block, block, blkHalves_not hip he hkeys, blkFinish_not hfp]

end Sys2Proof.Machine
end

section
/-! PROOFS. The position `(STAGE, RND)` of the sequencer (R28, R219): the rows that its own turns take, and those of
reset and of the host's turns. -/

namespace Sys2Proof.Machine

open Sys2Proof.Claims

/-- `(STAGE, RND)` (R28). -/
def State.position (s : State) : Stage × Fin 16 := (s.stage, s.rnd)

/-! ### The sequencer's rows -/

/-- The advance of a round stage (R28). -/
theorem advanceRound_position (last : Stage) (s : State) :
    (advanceRound last s).position = if s.rnd = 15 then (last, 0) else (s.stage, s.rnd + 1) := by
  split
  case isTrue hr => rw [advanceRound_of_last hr]; rfl
  case isFalse hr =>
    have hlt : s.rnd.val < 15 := (rnd_eq_last_or_lt s.rnd).resolve_left hr
    have hsucc : s.rnd + 1 = ⟨s.rnd.val + 1, by omega⟩ := Fin.ext (by simp only; omega)
    rw [advanceRound_of_lt hlt, hsucc]; rfl

theorem stageKsRnd_position (t : Tables) (s : State) :
    (stageKsRnd t s).position = if s.rnd = 15 then (.idle, 0) else (s.stage, s.rnd + 1) := by
  unfold stageKsRnd
  split <;> exact advanceRound_position .idle _

theorem stageBlkRnd_position (t : Tables) (s : State) :
    (stageBlkRnd t s).position = if s.rnd = 15 then (.blkFp, 0) else (s.stage, s.rnd + 1) :=
  advanceRound_position .blkFp _

section
variable {s u : State}

/-- A sequencer's turn moves the position by its row of R219. `BLK_FP` does not write `RND`, which is 0 there
(R40 (b)). -/
theorem position_of_sequencer (h : step s = .next u) (ha : nextAgent s = .sequencer)
    (hr : s.rnd ≠ 0 → s.stage = .ksRnd ∨ s.stage = .blkRnd) : u.position = nextPosition s.stage s.rnd := by
  cases hs : s.stage <;> rw [step_of_sequencerIn ⟨ha, hs⟩] at h <;> injection h with h <;> subst h
  case idle => exact congrArg (·, s.rnd) hs
  case ksPc1 => rfl
  case ksRnd => rw [stageKsRnd_position, popTurn_stage, hs]; rfl
  case blkIp => rfl
  case blkRnd => rw [stageBlkRnd_position, popTurn_stage, hs]; rfl
  case blkFp =>
    have hzero : s.rnd = 0 := by
      by_contra hne
      simpa [hs] using hr hne
    exact congrArg (Stage.idle, ·) hzero

/-! ### The rows of reset and of the host -/

theorem position_of_resets (h : step s = .next u) (hr : resets s) : u.position = (.idle, 0) := by
  rw [eq_of_step h (step_of_resets hr)]; rfl

/-- While the KFCC is busy no host turn moves the position (R282). -/
theorem position_of_host_of_busy (h : step s = .next u) (ha : nextAgent s = .host) (hs : s.stage ≠ .idle) :
    u.position = s.position := by
  obtain ⟨v, hv, hsame, -⟩ := stepFor_host_of_busy (t := tbl) ha (busy_of_stage_ne_idle hs)
  rw [eq_of_step h (step_eq_stepFor_tbl ▸ hv), hsame]; rfl

theorem position_of_keygen (h : step s = .next u) (hc : idleCommand s 0x01#8) (hr : s.rnd = 0) :
    u.position = (.ksPc1, 0) := by
  obtain ⟨rest, hstep⟩ := step_of_idleCommand hc (i := .keygen) (by decide) fun _ => rfl
  rw [eq_of_step h hstep]; exact congrArg (Stage.ksPc1, ·) hr

theorem position_of_block (h : step s = .next u) (hc : idleCommand s 0x02#8 ∨ idleCommand s 0x03#8)
    (hkv : s.kv = true) (hr : s.rnd = 0) : u.position = (.blkIp, 0) := by
  obtain hc | hc := hc
  · obtain ⟨rest, hstep⟩ := step_of_idleCommand hc (i := .enc) (by decide) fun _ => rfl
    rw [eq_of_step h hstep, startBlock_of_kv (by exact hkv)]; exact congrArg (Stage.blkIp, ·) hr
  · obtain ⟨rest, hstep⟩ := step_of_idleCommand hc (i := .dec) (by decide) fun _ => rfl
    rw [eq_of_step h hstep, startBlock_of_kv (by exact hkv)]; exact congrArg (Stage.blkIp, ·) hr

/-- A host turn that starts no command leaves an idle KFCC where it is. -/
theorem position_of_host_of_idle (h : step s = .next u) (ha : nextAgent s = .host) (hs : s.position = (.idle, 0))
    (hk : ¬ idleCommand s 0x01#8) (hb : ¬ ((idleCommand s 0x02#8 ∨ idleCommand s 0x03#8) ∧ s.kv = true)) :
    u.position = (.idle, 0) := by
  have hseq : ∀ st, ¬ sequencerIn s st := fun st hst => nomatch ha.symm.trans hst.1
  obtain ⟨p, q, lg, he⟩ := step_effect h
  cases he with
  | keygen hc => exact absurd hc hk
  | block dir hc hkv => exact absurd ⟨hc, hkv⟩ hb
  | clr hc => exact congrArg (·, 0) hc.1
  | reset hr => exact position_of_resets h hr
  | ksPc1 hst | ksRound hst | ksLast hst | blkIp hst | blkRound hst | blkLast hst | blkFp hst =>
    exact absurd hst (hseq _)
  | unchanged | refused | keyWrite | dinWrite | evtWrite | ienWrite => exact hs

end

/-- Settles O37, row by row. -/
theorem positionFollowsTheTransitionTable : Obligations.PositionFollowsTheTransitionTable := by
  intro s u h hr
  have hzero : s.stage = .idle → s.rnd = 0 := by
    intro hs
    by_contra hne
    simpa [hs] using hr hne
  refine ⟨fun ha => position_of_sequencer h ha hr, position_of_resets h, position_of_host_of_busy h,
    fun hc => position_of_keygen h hc (hzero hc.1), fun hc hkv => ?block, fun ha hs => ?idle⟩
  case block => exact position_of_block h hc hkv (hzero (hc.elim And.left And.left))
  case idle => exact position_of_host_of_idle h ha (Prod.ext hs (hzero hs))

end Sys2Proof.Machine
end

section
/-! PROOFS. The message layer's cipher block by block (R217, R254). -/

namespace Sys2Proof.Machine

theorem splitBlocks_append {a : List Byte} (b : List Byte) (ha : a.length % 8 = 0) :
    splitBlocks (a ++ b) = splitBlocks a ++ splitBlocks b := by
  have hlen : (a ++ b).length / 8 = a.length / 8 + b.length / 8 := by rw [List.length_append]; omega
  rw [splitBlocks, splitBlocks, splitBlocks, hlen, List.range_add, List.map_append, List.map_map]
  congr 1
  · refine List.map_congr_left fun j hj => Vector.ext fun k hk => ?_
    have hj : j < a.length / 8 := List.mem_range.1 hj
    simp only [Vector.getElem_ofFn]
    exact List.getD_append _ _ _ _ (by omega)
  · refine List.map_congr_left fun j _ => Vector.ext fun k hk => ?_
    have hsub : 8 * (a.length / 8 + j) + k - a.length = 8 * j + k := by omega
    simp only [Function.comp_apply, Vector.getElem_ofFn]
    rw [List.getD_append_right _ _ _ _ (by omega), hsub]

/-- Settles O51: the blocks are those of `a`, then those of `b`, and each goes through the cipher alone. -/
theorem blocksAreIndependent : Obligations.BlocksAreIndependent := by
  intro t dir key a b ha
  simp only [cipherBytes, splitBlocks_append b ha, List.map_append, joinBlocks, List.flatMap_append]

end Sys2Proof.Machine
end

section
/-! PROOFS. The run of an `ENC` or `DEC` (R200, R201, R220): after each of its sequencer steps the halves are those of
`BLOCK`, and the registers that are not its own are as they were when it was accepted. -/

namespace Sys2Proof.Machine

open Sys2Proof.Claims

/-! ### A command from its acceptance to its last step -/

/-- A command of `N + 1` sequencer steps: accepted in the first step of the run, in progress up to the last, which
completes it. -/
theorem AdvancesBySequencer.run_to_completion {t : Tables} {N : Nat} {P : Nat → State → Prop} {Q : State → Prop}
    (hP : AdvancesBySequencer t N P) {s u : State} {turns : List Agent} (hstart : stepFor t s = .next u) (hu : P 0 u)
    (hsched : u.sched = turns ++ [.sequencer]) (hplat : .platform ∉ turns) (hcount : turns.count .sequencer = N)
    (hlast : ∀ v, P N v → nextAgent v = .sequencer → ∃ w, stepFor t v = .next w ∧ Q w) :
    (∀ n w, 0 < n → n < turns.length + 2 → (coreFor t).run n s = .next w → ∃ k, P k w) ∧
      ∃ w, (coreFor t).run (turns.length + 2) s = .next w ∧ Q w := by
  have hrun : ∀ n, (coreFor t).run (n + 1) s = (coreFor t).run n u := run_succ_of_step (M := coreFor t) hstart
  have hprogress : ∀ n ≤ turns.length, ∃ v, (coreFor t).run n u = .next v ∧
      P (0 + (turns.take n).count .sequencer) v ∧ v.sched = turns.drop n ++ [.sequencer] :=
    fun n hn => hP.run hu hsched hplat (by omega) hn
  constructor
  case left =>
    intro n w hpos hn hw
    obtain ⟨m, rfl⟩ := Nat.exists_eq_succ_of_ne_zero hpos.ne'
    obtain ⟨v, hv, hruns, -⟩ := hprogress m (by omega)
    obtain rfl : v = w := by simpa [hrun, hv] using hw
    exact ⟨_, hruns⟩
  case right =>
    obtain ⟨v, hv, hruns, hvsched⟩ := hprogress turns.length le_rfl
    rw [List.take_length, hcount, Nat.zero_add] at hruns
    rw [List.drop_length, List.nil_append] at hvsched
    obtain ⟨w, hw, hdone⟩ := hlast v hruns (nextAgent_of_cons hvsched)
    refine ⟨w, ?_, hdone⟩
    rw [hrun, run_succ_of_run hv]
    exact run_succ_of_step (M := coreFor t) hw 0

/-! ### A block command in progress -/

/-- The state in which a block command starts that an idle KFCC accepts (R200, R201). -/
def blockAccepted (dir : Bool) (s : State) : State := { s with dir := dir, ov := false, stage := .blkIp }

/-- `u` differs from `s` in `L`, `R`, the position, `EVT` and `IEN` only, and on the host's side. -/
def sameButBlockWork (s u : State) : Prop :=
  u = { s with l := u.l, r := u.r, rnd := u.rnd, stage := u.stage, evt := u.evt, ien := u.ien,
               prog := u.prog, sched := u.sched, readLog := u.readLog }

/-- `BlockAt t b keys k u`: a block command on the block `b` with the round keys in the order `keys` has taken `k`
sequencer steps, and its position and halves are those of `BLOCK` there (R220). -/
inductive BlockAt (t : Tables) (b : Bits 64) (keys : Vector (Bits 48) 16) : Nat → State → Prop
  | ip {u : State} (hs : u.stage = .blkIp) : BlockAt t b keys 0 u
  | round {u : State} (i : Fin 16) (hs : u.stage = .blkRnd) (hi : u.rnd = i)
      (hlr : (u.l, u.r) = blkHalves t b keys i.val) : BlockAt t b keys (i.val + 1) u
  | fp {u : State} (hs : u.stage = .blkFp) (hr : u.rnd = 0) (hlr : (u.l, u.r) = blkHalves t b keys 16) :
      BlockAt t b keys 17 u

/-- A block command that was accepted with the state `s` has taken `k` sequencer steps and stands in `u`. -/
structure BlockRuns (t : Tables) (s : State) (k : Nat) (u : State) : Prop where
  frame : sameButBlockWork s u
  position : BlockAt t (dinBits s) (usedKeys s) k u

section
variable {t : Tables} {s u v : State} {k : Nat}

theorem BlockAt.stage_ne_idle {b : Bits 64} {keys : Vector (Bits 48) 16} (h : BlockAt t b keys k u) :
    u.stage ≠ .idle := by
  cases h with
  | ip hs => rw [hs]; decide
  | round i hs => rw [hs]; decide
  | fp hs => rw [hs]; decide

theorem BlockRuns.busy (h : BlockRuns t s k u) : u.busy = true :=
  busy_of_stage_ne_idle h.position.stage_ne_idle

theorem sameButBlockWork.trans (h : sameButBlockWork s u) (hv : sameButBlockWork u v) : sameButBlockWork s v := by
  rw [hv, h]; rfl

theorem sameButBlockWork_of_sameButEvents (hv : sameButEvents u v) : sameButBlockWork u v := by rw [hv]; rfl

theorem BlockRuns.host (h : BlockRuns t s k u) (hv : sameButEvents u v) : BlockRuns t s k v := by
  refine ⟨h.frame.trans (sameButBlockWork_of_sameButEvents hv), ?_⟩
  rw [hv]
  cases h.position with
  | ip hs => exact .ip hs
  | round i hs hi hlr => exact .round i hs hi hlr
  | fp hs hr hlr => exact .fp hs hr hlr

/-! ### Its sequencer steps -/

theorem stageBlkRnd_sched (t : Tables) (s : State) : (stageBlkRnd t s).sched = s.sched := by
  obtain hr | hr := rnd_eq_last_or_lt s.rnd
  · rw [stageBlkRnd_of_last hr]
  · rw [stageBlkRnd_of_lt hr]

theorem sameButBlockWork.dinBits_eq (h : sameButBlockWork s u) : dinBits u = dinBits s := by rw [h]; rfl

theorem sameButBlockWork.usedKeys_eq (h : sameButBlockWork s u) : usedKeys u = usedKeys s := by rw [h]; rfl

/-- `BLK_IP` starts as `BLOCK` does (R202, R203). -/
theorem BlockRuns.stageBlkIp (h : sameButBlockWork s u) : BlockRuns t s 1 (stageBlkIp t u) :=
  ⟨h.trans rfl, .round 0 rfl rfl (by rw [← h.dinBits_eq]; rfl)⟩

/-- The halves of a `BLK_RND` step are those of `BLOCK` after round `RND`, since the round key is entry `RND` of the
keys in the order of use (R204, R214). -/
theorem sameButBlockWork.feistel_eq (h : sameButBlockWork s u)
    (hlr : (u.l, u.r) = blkHalves t (dinBits s) (usedKeys s) u.rnd.val) :
    (u.r, xorBits u.l (roundF t u.r (roundKey u))) = blkHalves t (dinBits s) (usedKeys s) (u.rnd.val + 1) := by
  rw [blkHalves_succ, ← hlr, ← h.usedKeys_eq, usedKeys_rnd]; rfl

theorem BlockRuns.stageBlkRnd (h : sameButBlockWork s u) (hs : u.stage = .blkRnd)
    (hlr : (u.l, u.r) = blkHalves t (dinBits s) (usedKeys s) u.rnd.val) :
    BlockRuns t s (u.rnd.val + 2) (stageBlkRnd t u) := by
  have hnext := h.feistel_eq hlr
  obtain hr | hr := rnd_eq_last_or_lt u.rnd
  · rw [hr] at hnext
    rw [stageBlkRnd_of_last hr, hr]
    exact ⟨h.trans rfl, .fp rfl rfl hnext⟩
  · rw [stageBlkRnd_of_lt hr]
    exact ⟨h.trans rfl, .round ⟨u.rnd.val + 1, by omega⟩ hs rfl hnext⟩

theorem BlockRuns.sequencer (h : BlockRuns t s k u) (hk : k < 17) :
    ∃ v, execFor t (stageInstr u.stage) (popTurn u) = .next v ∧ BlockRuns t s (k + 1) v ∧
      v.sched = u.sched.tail := by
  have hframe : sameButBlockWork s (popTurn u) := h.frame.trans rfl
  cases h.position with
  | ip hs =>
    rw [hs]
    exact ⟨_, rfl, stageBlkIp hframe, rfl⟩
  | round i hs hi hlr =>
    rw [hs]
    subst hi
    exact ⟨_, rfl, stageBlkRnd hframe hs hlr, stageBlkRnd_sched t (popTurn u)⟩
  | fp => omega

theorem advancesBySequencer_block (t : Tables) (s : State) : AdvancesBySequencer t 17 (BlockRuns t s) :=
  ⟨BlockRuns.busy, BlockRuns.host, BlockRuns.sequencer⟩

/-- The host step that accepts an `ENC` or `DEC` (R200, R201). -/
theorem stepFor_block {dir : Bool} {rest : List HostOp} (ha : nextAgent s = .host) (hs : s.stage = .idle)
    (hkv : s.kv = true) (hp : s.prog = .wr 0x18#6 (if dir then 0x03#8 else 0x02#8) :: rest) :
    ∃ u, stepFor t s = .next u ∧ BlockRuns t (blockAccepted dir s) 0 u ∧ u.sched = s.sched.tail := by
  have hidle : (setProg rest (popTurn s)).busy = false := (busy_eq_false_iff _).2 hs
  refine ⟨blockAccepted dir (setProg rest (popTurn s)), ?_, ⟨rfl, .ip rfl⟩, rfl⟩
  calc stepFor t s
    _ = memWrite (execFor t) 0x18#6 (if dir then 0x03#8 else 0x02#8) (setProg rest (popTurn s)) :=
        (stepWith_host ha).trans (hostTurn_wr (s := popTurn s) hp)
    _ = .next (startBlock dir (setProg rest (popTurn s))) := by rw [memWrite_cmd_block, whenIdle_of_idle hidle]
    _ = _ := congrArg _ (startBlock_of_kv (by exact hkv))

/-- The eighteenth step of a block command publishes the block function of `DIN` (R205, R216). -/
theorem BlockRuns.completes (h : BlockRuns t s 17 u) (ha : nextAgent u = .sequencer) :
    ∃ v, stepFor t u = .next v ∧ v.stage = .idle ∧ v.rnd = 0 ∧ v.ov = true ∧ v.evt.getLsbD 1 = true ∧
      v.dir = s.dir ∧ v.dout = bitsToBytes (m := 8) (block t (dinBits s) (usedKeys s)) ∧
      v.din = s.din ∧ v.key = s.key ∧ v.rk = s.rk ∧ v.kv = s.kv ∧ v.c = s.c ∧ v.d = s.d := by
  obtain ⟨hframe, hpos⟩ := h
  generalize hk : 17 = k at hpos
  cases hpos with
  | ip => cases hk
  | round => omega
  | fp hs hr hlr =>
    refine ⟨stageBlkFp t (popTurn u), (stepWith_sequencer ha).trans (by rw [hs]; rfl), rfl, hr, rfl,
      getLsbD_or_eventMask u.evt .bdone, ?_⟩
    rw [stageBlkFp_dout, popTurn_l, popTurn_r, hlr, hframe]
    exact ⟨rfl, rfl, rfl, rfl, rfl, rfl, rfl, rfl⟩

/-- The order of use is that of the entries, or the reverse (R214). -/
theorem keyOrder_eq (dir : Bool) (keys : Vector (Bits 48) 16) :
    keyOrder dir keys = if dir then reversedKeys keys else keys := by
  cases dir <;> ext1 i hi <;> simp [keyOrder, ridx, reversedKeys]

end

/-- Settles O45: the accepting host step, the turns up to the last, and the last (`run_to_completion`). -/
theorem blockCommandsComputeTheBlockFunction : Obligations.BlockCommandsComputeTheBlockFunction := by
  intro t s dir rest turns hs hkv hp hsched hplat hcount
  have hlen : s.sched.length = turns.length + 2 := by simp [hsched]
  obtain ⟨u, hstart, hu, husched⟩ := stepFor_block (t := t) (nextAgent_of_cons hsched) hs hkv hp
  have husched' : u.sched = turns ++ [.sequencer] := by rw [husched, hsched]; rfl
  obtain ⟨hbefore, w, hw, hstage, hrnd, hov, hevt, hdir, hdout, hdin, hkey, hrk, hkv', hc, hd⟩ :=
    (advancesBySequencer_block t (blockAccepted dir s)).run_to_completion hstart hu husched' hplat hcount
      fun _ => BlockRuns.completes
  rw [hlen]
  refine ⟨fun n v hpos hn hv => ?before, w, hw, hstage, hrnd, hov, hevt, hdir, ?dout, hdin, hkey, hrk,
    hkv'.trans hkv, hc, hd⟩
  case before =>
    obtain ⟨k, hruns⟩ := hbefore n v hpos hn hv
    exact ⟨hruns.busy, by rw [hruns.frame]; rfl, by rw [hruns.frame]; rfl⟩
  case dout => rw [hdout, ← keyOrder_eq]; rfl

end Sys2Proof.Machine
end

section
/-! PROOFS. The commands that do no cipher work, `NOP` and `CLR` (R240, R241): what each answers in an idle and in
a busy state, as its meaning and as the write of its byte to `CMD`. -/

namespace Sys2Proof.Machine

section
variable (s : State)

/-- The write of a command byte is the command (R92), when the command too is refused with `E_BUSY` while busy. -/
theorem memWrite_cmd_of_whenIdle {run : Instr → State → Host.Outcome State Fault Refusal} {f : State → State}
    {i : Instr} {b : Byte} (hd : decodeCmd b = .ok i) (hi : run i s = .next (whenIdle f s)) :
    memWrite run cmdOffset b s = run i s := by
  rw [memWrite_cmdOffset]
  cases hb : s.busy with
  | true => rw [writeCmd_of_busy hb, hi, whenIdle_of_busy hb]
  | false => exact writeCmd_of_ok hb hd

/-! ### `NOP` (R240) -/

theorem exec_nop : exec .nop s = if s.stage = .idle then .next s else .next (raise .eBusy s) :=
  next_whenIdle _ s

theorem memWrite_cmd_nop : memWrite exec 0x18#6 0x00#8 s = exec .nop s :=
  memWrite_cmd_of_whenIdle s (f := fun s => s) (by decide) rfl

/-! ### `CLR` (R241) -/

theorem exec_clr : exec .clr s = if s.stage = .idle then .next (zeroise s) else .next (raise .eBusy s) :=
  next_whenIdle _ s

theorem memWrite_cmd_clr : memWrite exec 0x18#6 0x04#8 s = exec .clr s :=
  memWrite_cmd_of_whenIdle s (f := zeroise) (by decide) rfl

/-- `CLR` does not write `STAGE`, so only in an idle state is the result the reset state but for `EVT` and `IEN`. -/
theorem zeroise_of_idle {s : State} (hs : s.stage = .idle) :
    zeroise s = { resetCore s with evt := s.evt, ien := s.ien } := by
  simp [zeroise, resetCore, State.reset, hs]

end

/-- Settles O1, by the two cases of `exec_nop`. -/
theorem nopChangesNothing : Obligations.NopChangesNothing := by
  intro s
  rw [memWrite_cmd_nop, exec_nop, and_self, and_self]
  exact ⟨fun hs => if_pos hs, fun hs => if_neg hs⟩

/-- Settles O4, by the two cases of `exec_clr`; in the idle one `zeroise` is the reset that keeps `EVT` and `IEN`. -/
theorem clrZeroisesAllButEvents : Obligations.ClrZeroisesAllButEvents := by
  intro s
  rw [memWrite_cmd_clr, exec_clr, and_self]
  refine ⟨fun hs => ⟨?_, rfl⟩, fun hs => if_neg hs⟩
  rw [if_pos hs, zeroise_of_idle hs]; rfl

end Sys2Proof.Machine
end

section
/-! PROOFS. The buffers of the message layer: the key policy (R250), and padding and unpadding (R252, R253). -/

namespace Sys2Proof.Machine

/-! ### The key policy (R250) -/

/-- Padding and truncation at once: the first 8 bytes of the list with zero bytes behind it. -/
theorem toList_keyPolicy (u : List Byte) :
    (keyPolicy u).toList = (u ++ List.replicate (8 - u.length) 0x00#8).take 8 := by
  refine List.ext_getElem (by simp; omega) fun k hk _ => ?_
  simp only [keyPolicy, Vector.getElem_toList, Vector.getElem_ofFn, List.getElem_take, List.getElem_append,
    List.getElem_replicate]
  split
  case isTrue h => exact (List.getElem_eq_getD _).symm
  case isFalse h => exact List.getD_eq_default _ _ (by omega)

/-- Settles O48: nothing is cut from a short key, and nothing is appended to a long one. -/
theorem keyPolicyPadsOrTruncates : Obligations.KeyPolicyPadsOrTruncates := by
  intro u
  rw [toList_keyPolicy]
  constructor
  case left => exact fun h => List.take_of_length_le (by simp; omega)
  case right => exact fun h => List.take_append_of_le_length h

/-! ### Padding (R252) -/

theorem padLength_bounds (len : Nat) : 1 ≤ padLength len ∧ padLength len ≤ 8 := by
  unfold padLength; omega

theorem length_pad (d : List Byte) : (pad d).length = d.length + padLength d.length := by
  simp [pad]

theorem length_pad_mod (d : List Byte) : (pad d).length % 8 = 0 := by
  rw [length_pad, padLength]; omega

/-! ### Unpadding (R253) -/

/-- What `unpad` says of a buffer with a last byte `b`; of the others it looks at their number only. -/
theorem unpad_concat (d : List Byte) (b : Byte) :
    unpad (d ++ [b]) = if b.toNat < 1 ∨ 8 < b.toNat ∨ d.length + 1 < b.toNat then .error .paddingError
      else .ok ((d ++ [b]).take (d.length + 1 - b.toNat)) := by
  simp [unpad]

theorem unpad_concat_of_out_of_range {d : List Byte} {b : Byte}
    (h : b.toNat < 1 ∨ 8 < b.toNat ∨ d.length + 1 < b.toNat) : unpad (d ++ [b]) = .error .paddingError := by
  rw [unpad_concat, if_pos h]

/-- The last byte is always among those dropped. -/
theorem unpad_concat_of_in_range {d : List Byte} {b : Byte} (h1 : 1 ≤ b.toNat) (h8 : b.toNat ≤ 8)
    (hlen : b.toNat ≤ d.length + 1) : unpad (d ++ [b]) = .ok (d.take (d.length + 1 - b.toNat)) := by
  rw [unpad_concat, if_neg (by omega), List.take_append_of_le_length (by omega)]

/-- The last byte of a padded buffer says how many bytes the padding has. -/
theorem unpad_pad (d : List Byte) : unpad (pad d) = .ok d := by
  obtain ⟨h1, h8⟩ := padLength_bounds d.length
  obtain ⟨m, hm⟩ : ∃ m, padLength d.length = m + 1 := ⟨_, (Nat.sub_add_cancel h1).symm⟩
  have hb : (BitVec.ofNat 8 (m + 1)).toNat = m + 1 := by rw [BitVec.toNat_ofNat]; omega
  rw [pad, hm, List.replicate_succ', ← List.append_assoc,
    unpad_concat_of_in_range (by omega) (by omega) (by simp [hb])]
  simp [hb]

/-- Settles O49, from `unpad_pad` and the two cases of a last byte. -/
theorem unpadUndoesPad : Obligations.UnpadUndoesPad := by
  refine ⟨fun d => ?pad, rfl, fun d b => ⟨unpad_concat_of_out_of_range, unpad_concat_of_in_range⟩⟩
  obtain ⟨h1, h8⟩ := padLength_bounds d.length
  exact ⟨padLength d.length, rfl, h1, h8, rfl, by rw [length_pad]; omega, length_pad_mod d, unpad_pad d⟩

end Sys2Proof.Machine
end

section
/-! PROOFS. Hexadecimal strings (R255, R256): what encoding and decoding say of one digit, of one byte, and of a
whole string. -/

namespace Sys2Proof.Machine

open Sys2Proof.Claims

/-! ### Digits -/

/-- A nibble's digit is the one at its place among the upper-case digits (R255). -/
theorem getElem?_upperDigits : ∀ n < 16, upperDigits[n]? = some (hexDigit n) := by decide

theorem hexValue_hexDigit : ∀ n < 16, hexValue (hexDigit n) = some n := by decide

/-- The characters of the three ranges of `hexValue`, by their code points. -/
theorem mem_digits_of_hexValue {c : Char} (h : hexValue c ≠ none) : c ∈ upperDigits ++ lowerDigits := by
  have hcode : ∀ n < 0x67, hexValue (Char.ofNat n) ≠ none → Char.ofNat n ∈ upperDigits ++ lowerDigits := by decide
  have hlt : c.toNat < 0x67 := by
    by_contra hge
    refine h ?_
    unfold hexValue
    rw [if_neg (by omega), if_neg (by omega), if_neg (by omega)]
  have hc := hcode c.toNat hlt
  rw [Char.ofNat_toNat] at hc
  exact hc h

/-- Either case of a digit has the same value, and no other letter becomes a digit (R256). -/
theorem hexValue_toLower (c : Char) : hexValue c.toLower = hexValue c := by
  have hcode : ∀ n < 0x5B, 0x41 ≤ n → hexValue (Char.ofNat (n + 32)) = hexValue (Char.ofNat n) := by decide
  by_cases hc : c.isUpper
  case pos =>
    obtain ⟨h41, h5a⟩ : 0x41 ≤ c.toNat ∧ c.toNat ≤ 0x5A := by
      simpa [Char.isUpper, UInt32.le_iff_toNat_le] using hc
    rw [Char.toLower_eq_of_isUpper hc, hcode c.toNat (by omega) h41, Char.ofNat_toNat]
  case neg => rw [Char.toLower_eq_of_not_isUpper hc]

/-! ### Encoding (R255) -/

theorem hexEncode_cons (b : Byte) (d : List Byte) :
    hexEncode (b :: d) = hexDigit (b.toNat / 16) :: hexDigit (b.toNat % 16) :: hexEncode d := rfl

theorem length_hexEncode (d : List Byte) : (hexEncode d).length = 2 * d.length := by
  induction d with
  | nil => rfl
  | cons b d ih => rw [hexEncode_cons, List.length_cons, List.length_cons, ih, List.length_cons]; omega

/-- Byte `k` becomes digits `2k` and `2k + 1`. -/
theorem getElem?_hexEncode {d : List Byte} {k : Nat} {b : Byte} (h : d[k]? = some b) :
    (hexEncode d)[2 * k]? = some (hexDigit (b.toNat / 16)) ∧
      (hexEncode d)[2 * k + 1]? = some (hexDigit (b.toNat % 16)) := by
  induction d generalizing k with
  | nil => simp at h
  | cons b' d ih =>
    cases k with
    | zero =>
      obtain rfl : b' = b := by simpa using h
      exact ⟨rfl, rfl⟩
    | succ k => exact ih h

/-! ### Decoding (R256) -/

theorem hexBytes_hexEncode (d : List Byte) : hexBytes (hexEncode d) = some d := by
  induction d with
  | nil => rfl
  | cons b d ih =>
    have hb : b.toNat < 256 := b.isLt
    rw [hexEncode_cons, hexBytes, hexValue_hexDigit _ (by omega), hexValue_hexDigit _ (by omega), ih]
    simp only [Nat.div_add_mod, BitVec.ofNat_toNat, BitVec.setWidth_eq]

theorem hexBytes_cons_cons (hi lo : Char) (rest : List Char) :
    hexBytes (hi :: lo :: rest) = (hexValue hi).bind fun h => (hexValue lo).bind fun l =>
      (hexBytes rest).map fun bytes => BitVec.ofNat 8 (16 * h + l) :: bytes := by
  rw [hexBytes]
  cases hexValue hi <;> cases hexValue lo <;> cases hexBytes rest <;> rfl

theorem hexBytes_map_toLower : ∀ h : List Char, hexBytes (h.map Char.toLower) = hexBytes h
  | [] => rfl
  | [_] => rfl
  | hi :: lo :: rest => by
    simp only [List.map_cons, hexBytes_cons_cons, hexValue_toLower, hexBytes_map_toLower rest]

/-- A string that decodes consists of digits, two for each byte. -/
theorem digits_of_hexBytes_eq_some : ∀ {h : List Char} {bytes : List Byte}, hexBytes h = some bytes →
    h.length = 2 * bytes.length ∧ ∀ c ∈ h, c ∈ upperDigits ++ lowerDigits
  | [], bytes, hb => by
    obtain rfl : [] = bytes := by simpa [hexBytes] using hb
    simp
  | hi :: lo :: rest, bytes, hb => by
    rw [hexBytes_cons_cons] at hb
    simp only [Option.bind_eq_some_iff, Option.map_eq_some_iff] at hb
    obtain ⟨h, hhi, l, hlo, tail, htail, rfl⟩ := hb
    obtain ⟨hlen, hmem⟩ := digits_of_hexBytes_eq_some htail
    refine ⟨by simp only [List.length_cons]; omega, ?_⟩
    rw [List.forall_mem_cons, List.forall_mem_cons]
    exact ⟨mem_digits_of_hexValue (by simp [hhi]), mem_digits_of_hexValue (by simp [hlo]), hmem⟩

theorem hexDecode_of_hexBytes {h : List Char} {bytes : List Byte} (hb : hexBytes h = some bytes) :
    hexDecode h = if bytes.length % 8 = 0 then .ok bytes else .error .lengthError := by
  rw [hexDecode, hb]

theorem hexDecode_hexEncode {d : List Byte} (hd : d.length % 8 = 0) : hexDecode (hexEncode d) = .ok d := by
  rw [hexDecode_of_hexBytes (hexBytes_hexEncode d), if_pos hd]

theorem hexDecode_map_toLower (h : List Char) : hexDecode (h.map Char.toLower) = hexDecode h := by
  rw [hexDecode, hexDecode, hexBytes_map_toLower]

/-- A wrong character leaves no bytes, and a wrong length a wrong number of them. -/
theorem hexDecode_of_malformed {h : List Char}
    (hm : (∃ c ∈ h, c ∉ upperDigits ++ lowerDigits) ∨ h.length % 16 ≠ 0) : hexDecode h = .error .lengthError := by
  cases hb : hexBytes h with
  | none => rw [hexDecode, hb]
  | some bytes =>
    obtain ⟨hlen, hmem⟩ := digits_of_hexBytes_eq_some hb
    obtain ⟨c, hc, hne⟩ | hmod := hm
    · exact absurd (hmem c hc) hne
    · rw [hexDecode_of_hexBytes hb, if_neg (by omega)]

/-- The empty string decodes to no bytes, and there is no last byte to unpad. -/
theorem decryptMessage_nil (t : Tables) (u : List Byte) : decryptMessage t [] u = .error .paddingError := rfl

/-- Settles O50: the encoding digit by digit and undone, then the decoding of the other strings. -/
theorem hexEncodesAndDecodes : Obligations.HexEncodesAndDecodes := by
  refine ⟨fun d => ⟨length_hexEncode d, fun k b hb => ?digits, hexDecode_hexEncode⟩, hexDecode_map_toLower,
    fun _ => hexDecode_of_malformed, decryptMessage_nil⟩
  have hlt : b.toNat < 256 := b.isLt
  rw [getElem?_upperDigits _ (by omega), getElem?_upperDigits _ (by omega)]
  exact getElem?_hexEncode hb

end Sys2Proof.Machine
end

section
/-! PROOFS. UTF-8 as the model has it (log entry 9): decoding the bytes of a character gives the character. -/

namespace Sys2Proof.Machine

section
variable {n : Nat} {c : Char} (rest : List Byte)

/-! ### One byte of a sequence -/

/-- A character of one byte. -/
theorem utf8Read_ascii (hn : n < 0x80) :
    utf8Read none (BitVec.ofNat 8 n :: rest) = (utf8Read none rest).map fun text => Char.ofNat n :: text := by
  have hb : (BitVec.ofNat 8 n).toNat = n := by rw [BitVec.toNat_ofNat]; omega
  rw [utf8Read, hb, utf8Lead, if_pos hn]

/-- A lead byte opens a sequence. -/
theorem utf8Read_lead {p : Utf8Pending} (hn : n < 256) (hp : utf8Lead n = some (.inr p)) :
    utf8Read none (BitVec.ofNat 8 n :: rest) = utf8Read (some p) rest := by
  have hb : (BitVec.ofNat 8 n).toNat = n := by rw [BitVec.toNat_ofNat]; omega
  rw [utf8Read, hb, hp]

theorem utf8Lead_two (hn : n < 32) : utf8Lead (0xC0 + n) = some (.inr ⟨1, n, 0x80⟩) := by
  rw [utf8Lead, if_neg (by omega), if_pos (by omega), Nat.add_sub_cancel_left]

theorem utf8Lead_three (hn : n < 16) : utf8Lead (0xE0 + n) = some (.inr ⟨2, n, 0x800⟩) := by
  rw [utf8Lead, if_neg (by omega), if_neg (by omega), if_pos (by omega), Nat.add_sub_cancel_left]

theorem utf8Lead_four (hn : n < 8) : utf8Lead (0xF0 + n) = some (.inr ⟨3, n, 0x10000⟩) := by
  rw [utf8Lead, if_neg (by omega), if_neg (by omega), if_neg (by omega), if_pos (by omega), Nat.add_sub_cancel_left]

/-- A continuation byte before the last adds its six bits to the value. -/
theorem utf8Read_continuation {todo value least : Nat} (hn : n < 64) :
    utf8Read (some ⟨todo + 2, value, least⟩) (BitVec.ofNat 8 (0x80 + n) :: rest) =
      utf8Read (some ⟨todo + 1, value * 64 + n, least⟩) rest := by
  have hb : (BitVec.ofNat 8 (0x80 + n)).toNat = 0x80 + n := by rw [BitVec.toNat_ofNat]; omega
  rw [utf8Read, hb, if_pos (by omega), Nat.add_sub_cancel_left]
  exact if_neg (by simp)

/-- The value of a character is no surrogate, so a sequence that is not overlong ends in it. -/
theorem utf8Finish_toNat {least : Nat} (hc : least ≤ c.toNat) : utf8Finish c.toNat least = some c := by
  rw [utf8Finish, if_pos ⟨hc, c.valid⟩, Char.ofNat_toNat]

/-- The last continuation byte completes the character. -/
theorem utf8Read_last {value least : Nat} (hn : n < 64) (hv : value * 64 + n = c.toNat) (hc : least ≤ c.toNat) :
    utf8Read (some ⟨1, value, least⟩) (BitVec.ofNat 8 (0x80 + n) :: rest) =
      (utf8Read none rest).map fun text => c :: text := by
  have hb : (BitVec.ofNat 8 (0x80 + n)).toNat = 0x80 + n := by rw [BitVec.toNat_ofNat]; omega
  rw [utf8Read, hb, if_pos (by omega), Nat.add_sub_cancel_left]
  simp only [le_refl, if_true, hv, utf8Finish_toNat hc]

end

/-! ### Characters and texts -/

/-- The last code point is 10FFFF. -/
theorem toNat_char_lt (c : Char) : c.toNat < 0x110000 :=
  c.valid.elim (fun h => h.trans (by decide)) And.right

/-- One case for each number of bytes; the bytes hold the value in pieces of six bits. -/
theorem utf8Read_utf8Char_append (c : Char) (rest : List Byte) :
    utf8Read none (utf8Char c ++ rest) = (utf8Read none rest).map fun text => c :: text := by
  have hmax := toNat_char_lt c
  rw [utf8Char]
  split_ifs with h1 h2 h3 <;> simp only [List.cons_append, List.nil_append]
  case pos => rw [utf8Read_ascii _ h1, Char.ofNat_toNat]
  case pos =>
    rw [utf8Read_lead _ (by omega) (utf8Lead_two (by omega)),
      utf8Read_last (c := c) _ (by omega) (by omega) (by omega)]
  case pos =>
    rw [utf8Read_lead _ (by omega) (utf8Lead_three (by omega)), utf8Read_continuation _ (by omega),
      utf8Read_last (c := c) _ (by omega) (by omega) (by omega)]
  case neg =>
    rw [utf8Read_lead _ (by omega) (utf8Lead_four (by omega)), utf8Read_continuation _ (by omega),
      utf8Read_continuation _ (by omega), utf8Read_last (c := c) _ (by omega) (by omega) (by omega)]

theorem utf8Read_utf8Encode (text : List Char) : utf8Read none (utf8Encode text) = some text := by
  induction text with
  | nil => rfl
  | cons c text ih => rw [utf8Encode, List.flatMap_cons, utf8Read_utf8Char_append, ← utf8Encode, ih]; rfl

theorem utf8Decode_utf8Encode (text : List Char) : utf8Decode (utf8Encode text) = .ok text := by
  rw [utf8Decode, utf8Read_utf8Encode]

end Sys2Proof.Machine
end

section
/-! PROOFS. The message layer's round trip (R262 (1)): each block through the cipher and back (R215), the blocks of a
buffer (R254), and then every layer of `encryptMessage` undone by `decryptMessage`. -/

namespace Sys2Proof.Machine

open Sys2Proof.Claims

/-! ### Blocks (R254) -/

theorem joinBlocks_cons (b : Vector Byte 8) (blocks : List (Vector Byte 8)) :
    joinBlocks (b :: blocks) = b.toList ++ joinBlocks blocks := rfl

theorem length_joinBlocks (blocks : List (Vector Byte 8)) : (joinBlocks blocks).length = 8 * blocks.length := by
  induction blocks with
  | nil => rfl
  | cons b blocks ih => rw [joinBlocks_cons, List.length_append, ih, Vector.length_toList, List.length_cons]; omega

theorem splitBlocks_toList (b : Vector Byte 8) : splitBlocks b.toList = [b] := by
  simp [splitBlocks]

theorem splitBlocks_joinBlocks (blocks : List (Vector Byte 8)) : splitBlocks (joinBlocks blocks) = blocks := by
  induction blocks with
  | nil => rfl
  | cons b blocks ih =>
    rw [joinBlocks_cons, splitBlocks_append _ (by simp), splitBlocks_toList, ih, List.singleton_append]

/-- A buffer of whole blocks is their concatenation. -/
theorem exists_joinBlocks_eq {m : Nat} {d : List Byte} (hd : d.length = 8 * m) : ∃ blocks, joinBlocks blocks = d := by
  induction m generalizing d with
  | zero => exact ⟨[], (List.eq_nil_of_length_eq_zero hd).symm⟩
  | succ m ih =>
    obtain ⟨blocks, hblocks⟩ := ih (d := d.drop 8) (by rw [List.length_drop]; omega)
    have hsize : (d.take 8).toArray.size = 8 := by rw [List.size_toArray, List.length_take]; omega
    refine ⟨⟨(d.take 8).toArray, hsize⟩ :: blocks, ?_⟩
    rw [joinBlocks_cons, hblocks]
    exact List.take_append_drop 8 d

/-! ### The cipher of a buffer (R215, R254) -/

theorem cipherBytes_joinBlocks (t : Tables) (dir : Bool) (key : Vector Byte 8) (blocks : List (Vector Byte 8)) :
    cipherBytes t dir key (joinBlocks blocks) = joinBlocks (blocks.map (cipherBlock t dir key)) := by
  rw [cipherBytes, splitBlocks_joinBlocks]

/-- `DEC` uses the round keys of `ENC` in reverse order (R214), so it undoes it (R215). -/
theorem cipherBlock_cipherBlock {t : Tables} (ht : t.wf = true) (key b : Vector Byte 8) :
    cipherBlock t true key (cipherBlock t false key b) = b := by
  simp only [cipherBlock, keyOrder_eq, bytesToBits_bitsToBytes, if_true, Bool.false_eq_true, if_false]
  rw [block_reversedKeys ht]
  exact bitsToBytes_bytesToBits b

/-- Settles O52: on the blocks of the padded text every layer of `encryptMessage` is undone, the outermost first. -/
theorem messageRoundTrip : Obligations.MessageRoundTrip := by
  intro t text u ht
  have hlen : (pad (utf8Encode text)).length = 8 * ((pad (utf8Encode text)).length / 8) := by
    have := length_pad_mod (utf8Encode text); omega
  obtain ⟨blocks, hblocks⟩ := exists_joinBlocks_eq hlen
  have hhex : hexDecode (encryptMessage t text u) =
      .ok (joinBlocks (blocks.map (cipherBlock t false (keyPolicy u)))) := by
    rw [encryptMessage, ← hblocks, cipherBytes_joinBlocks, hexDecode_hexEncode]
    rw [length_joinBlocks, Nat.mul_mod_right]
  have hcipher : cipherBytes t true (keyPolicy u) (joinBlocks (blocks.map (cipherBlock t false (keyPolicy u)))) =
      pad (utf8Encode text) := by
    have hid : cipherBlock t true (keyPolicy u) ∘ cipherBlock t false (keyPolicy u) = id :=
      funext (cipherBlock_cipherBlock ht (keyPolicy u))
    rw [cipherBytes_joinBlocks, List.map_map, hid, List.map_id, hblocks]
  rw [decryptMessage, hhex]
  simp only [hcipher, unpad_pad, utf8Decode_utf8Encode]

end Sys2Proof.Machine
end

section
/-! PROOFS. How a host program runs to its end on the machine under any schedule without reset (R71, R334): in an idle
KFCC the sequencer's turns pass until the host's comes, and in a busy one a host at a `WAIT` polls until the command
has ended (R99, R331). -/

namespace Sys2Proof.Machine

/-! ### Reaching -/

/-- Some run of the machine with the tables `t` leads from the one state to the other. -/
def Reaches (t : Tables) : State → State → Prop := Relation.ReflTransGen fun s u => stepFor t s = .next u

theorem exists_run_of_reaches {t : Tables} {s u : State} (h : Reaches t s u) :
    ∃ n, (coreFor t).run n s = .next u := by
  induction h using Relation.ReflTransGen.head_induction_on with
  | refl => exact ⟨0, rfl⟩
  | head hstep _ ih =>
    obtain ⟨n, hn⟩ := ih
    exact ⟨n + 1, (run_succ_of_step (M := coreFor t) hstep n).trans hn⟩

/-- From every state of which `P` holds the machine reaches one of which `Q` holds. -/
def LeadsTo (t : Tables) (P Q : State → Prop) : Prop := ∀ s, P s → ∃ u, Reaches t s u ∧ Q u

section
variable {t : Tables} {P Q R : State → Prop}

theorem LeadsTo.of_imp (h : ∀ s, P s → Q s) : LeadsTo t P Q := fun s hs => ⟨s, .refl, h s hs⟩

theorem LeadsTo.trans (h : LeadsTo t P Q) (h' : LeadsTo t Q R) : LeadsTo t P R := by
  intro s hs
  obtain ⟨u, hsu, hu⟩ := h s hs
  obtain ⟨v, huv, hv⟩ := h' u hu
  exact ⟨v, Relation.ReflTransGen.trans hsu huv, hv⟩

theorem reaches_of_step {s u v : State} (h : stepFor t s = .next u) (hv : Reaches t u v) : Reaches t s v :=
  Relation.ReflTransGen.head h hv

end

/-! ### The host's side of a run -/

/-- The host has `ops` still to issue and has read `reads` from `DOUT`, no reset is to come, the error bits are
`errs`, and `K` holds. -/
structure DriverAt (ops : List HostOp) (reads : List Byte) (errs : Byte) (K : State → Prop) (s : State) : Prop where
  prog : s.prog = ops
  noReset : noReset s
  reads : doutReads s.readLog = reads
  errors : s.evt &&& errorBits = errs
  regs : K s

/-- `K` speaks of the registers of an idle KFCC only, so that a turn of the sequencer or a read keeps it. -/
structure OfIdleRegisters (K : State → Prop) : Prop where
  idle {s : State} (h : K s) : s.stage = .idle
  hostSide {s : State} (p : List HostOp) (q : List Agent) (lg : List (Offset × Byte)) (h : K s) :
    K (withHostSide p q lg s)

theorem doutReads_append (lg lg' : List (Offset × Byte)) : doutReads (lg ++ lg') = doutReads lg ++ doutReads lg' := by
  simp [doutReads]

theorem doutReads_doutOffset (k : Fin 8) (b : Byte) : doutReads [(doutOffset k, b)] = [b] := by
  have hk : ∀ k : Fin 8, 0x10 ≤ (doutOffset k).toNat ∧ (doutOffset k).toNat < 0x18 := by decide
  simp [doutReads, hk k]

theorem noReset_popTurn {s : State} (h : noReset s) : noReset (popTurn s) := fun hp => h (List.mem_of_mem_tail hp)

theorem nextAgent_ne_platform {s : State} (h : noReset s) : nextAgent s ≠ .platform := by
  cases hs : s.sched with
  | nil =>
    rw [nextAgent_of_nil hs]
    split <;> decide
  | cons a rest =>
    rw [nextAgent_of_cons hs]
    rintro rfl
    exact h (by rw [hs]; exact List.mem_cons_self)

section
variable {t : Tables} {ops : List HostOp} {reads : List Byte} {errs : Byte} {K K' Q : State → Prop}

theorem DriverAt.mono {s : State} (h : DriverAt ops reads errs K s) (hK : K s → K' s) :
    DriverAt ops reads errs K' s :=
  ⟨h.prog, h.noReset, h.reads, h.errors, hK h.regs⟩

theorem DriverAt.popTurn {s : State} (h : DriverAt ops reads errs K s) (hK : OfIdleRegisters K) :
    DriverAt ops reads errs K (popTurn s) :=
  ⟨h.prog, noReset_popTurn h.noReset, h.reads, h.errors, hK.hostSide s.prog s.sched.tail s.readLog h.regs⟩

/-! ### The host's turns in an idle KFCC -/

/-- The host's turn comes: those of the sequencer before it pass (R29). -/
theorem leadsTo_of_hostTurn (hK : OfIdleRegisters K)
    (hturn : ∀ s, DriverAt ops reads errs K s → ∃ u, hostTurn (execFor t) s = .next u ∧ Q u) :
    LeadsTo t (DriverAt ops reads errs K) Q := by
  intro s h
  induction hlen : s.sched.length generalizing s with
  | zero =>
    have ha : nextAgent s = .host := by
      rw [nextAgent_of_nil (List.length_eq_zero_iff.1 hlen), if_pos (hK.idle h.regs)]
    obtain ⟨u, hu, hQ⟩ := hturn _ (h.popTurn hK)
    exact ⟨u, reaches_of_step ((stepWith_host ha).trans hu) .refl, hQ⟩
  | succ n ih =>
    cases ha : nextAgent s with
    | platform => exact absurd ha (nextAgent_ne_platform h.noReset)
    | host =>
      obtain ⟨u, hu, hQ⟩ := hturn _ (h.popTurn hK)
      exact ⟨u, reaches_of_step ((stepWith_host ha).trans hu) .refl, hQ⟩
    | sequencer =>
      have hpass : stepFor t s = .next (Machine.popTurn s) := by
        rw [stepFor, stepWith_sequencer ha, hK.idle h.regs]; rfl
      obtain ⟨u, hu, hQ⟩ := ih _ (h.popTurn hK) (by simp [hlen])
      exact ⟨u, reaches_of_step hpass hu, hQ⟩

/-- A write, by what it does to an idle KFCC. -/
theorem leadsTo_wr {a : Offset} {v : Byte} (hK : OfIdleRegisters K)
    (hw : ∀ s, DriverAt ops reads errs K s → ∃ u, memWrite (execFor t) a v s = .next u ∧ Q u) :
    LeadsTo t (DriverAt (.wr a v :: ops) reads errs K) Q := by
  refine leadsTo_of_hostTurn hK fun s h => ?_
  rw [hostTurn_wr h.prog]
  exact hw _ ⟨rfl, h.noReset, h.reads, h.errors, hK.hostSide ops s.sched s.readLog h.regs⟩

/-- A read returns the byte that `K` says stands there (R63). -/
theorem leadsTo_rd {a : Offset} {b : Byte} (hK : OfIdleRegisters K) (hb : ∀ s, K s → memRead a s = b) :
    LeadsTo t (DriverAt (.rd a :: ops) reads errs K) (DriverAt ops (reads ++ doutReads [(a, b)]) errs K) := by
  refine leadsTo_of_hostTurn hK fun s h => ?_
  refine ⟨_, hostTurn_rd h.prog, rfl, h.noReset, ?_, h.errors, hK.hostSide (s := s) ops s.sched _ h.regs⟩
  rw [setProg_readLog, logRead_readLog, doutReads_append, h.reads, hb s h.regs]

/-- A `WAIT` in an idle KFCC ends at once (R99). -/
theorem leadsTo_wait (hK : OfIdleRegisters K) :
    LeadsTo t (DriverAt (.wait :: ops) reads errs K) (DriverAt ops reads errs K) := by
  refine leadsTo_of_hostTurn hK fun s h => ?_
  have hb : s.busy = false := (busy_eq_false_iff s).2 (hK.idle h.regs)
  refine ⟨_, hostTurn_wait h.prog, ?_⟩
  rw [hb]
  refine ⟨rfl, h.noReset, ?_, h.errors, hK.hostSide (s := s) ops s.sched _ h.regs⟩
  rw [setProg_readLog, logRead_readLog, doutReads_append, h.reads]
  exact List.append_nil reads

/-! ### The turns in a busy KFCC -/

/-- No completion event is an error bit (R31, R285). -/
theorem completion_errorBits (v : Byte) {e : Event} (he : e = .kdone ∨ e = .bdone) :
    (v ||| eventMask e) &&& errorBits = v &&& errorBits := by
  have hmask : eventMask e &&& errorBits = 0#8 := by obtain rfl | rfl := he <;> decide
  rw [BitVec.and_or_distrib_right, hmask, BitVec.or_zero]

/-- The sequencer writes nothing on the host's side and raises no error. -/
theorem DriverAt.sequencer {s u : State} (h : DriverAt ops reads errs K s)
    (hu : execFor t (stageInstr s.stage) (Machine.popTurn s) = .next u) (hK' : K' u) :
    DriverAt ops reads errs K' u := by
  obtain ⟨hprog, hreset, hreads, herrs, -⟩ := h
  have hreset' := noReset_popTurn hreset
  cases hs : s.stage <;> rw [hs] at hu <;> injection hu with hu <;> subst hu
  case idle => exact ⟨hprog, hreset', hreads, herrs, hK'⟩
  case ksPc1 => exact ⟨hprog, hreset', hreads, herrs, hK'⟩
  case ksRnd =>
    obtain hr | hr := rnd_eq_last_or_lt s.rnd
    · rw [stageKsRnd_of_last (s := Machine.popTurn s) hr] at hK' ⊢
      exact ⟨hprog, hreset', hreads, (completion_errorBits s.evt (.inl rfl)).trans herrs, hK'⟩
    · rw [stageKsRnd_of_lt (s := Machine.popTurn s) hr] at hK' ⊢
      exact ⟨hprog, hreset', hreads, herrs, hK'⟩
  case blkIp => exact ⟨hprog, hreset', hreads, herrs, hK'⟩
  case blkRnd =>
    obtain hr | hr := rnd_eq_last_or_lt s.rnd
    · rw [stageBlkRnd_of_last (s := Machine.popTurn s) hr] at hK' ⊢
      exact ⟨hprog, hreset', hreads, herrs, hK'⟩
    · rw [stageBlkRnd_of_lt (s := Machine.popTurn s) hr] at hK' ⊢
      exact ⟨hprog, hreset', hreads, herrs, hK'⟩
  case blkFp => exact ⟨hprog, hreset', hreads, (completion_errorBits s.evt (.inr rfl)).trans herrs, hK'⟩

/-- A poll of a busy KFCC leaves the host at its `WAIT` (R99). -/
theorem DriverAt.poll {s : State} (h : DriverAt (.wait :: ops) reads errs K s) (ha : nextAgent s = .host)
    (hb : s.busy = true) (hK : ∀ u, sameButEvents s u → K' u) :
    ∃ u, stepFor t s = .next u ∧ DriverAt (.wait :: ops) reads errs K' u ∧ u.sched = s.sched.tail := by
  have hstep := (stepWith_host ha).trans (hostTurn_wait (run := execFor t) (s := Machine.popTurn s) h.prog)
  rw [show (Machine.popTurn s).busy = true from hb] at hstep
  refine ⟨_, hstep, ⟨h.prog, noReset_popTurn h.noReset, ?_, h.errors, hK _ rfl⟩, rfl⟩
  rw [setProg_readLog, logRead_readLog, doutReads_append, popTurn_readLog, h.reads]
  exact List.append_nil reads

/-- With an empty schedule a busy sequencer moves (assumption log entry 2), so a turn of the host was planned. -/
theorem sched_ne_nil_of_busy {s : State} (ha : nextAgent s = .host) (hb : s.busy = true) : s.sched ≠ [] := by
  intro hs
  simp [nextAgent, hs, hb] at ha

/-- A command in progress comes to its last step: each turn uses up one of the schedule or takes the command further. -/
theorem AdvancesBySequencer.leadsTo_last {N : Nat} {P : Nat → State → Prop} (hP : AdvancesBySequencer t N P)
    {k : Nat} (hk : k ≤ N) (s : State) (h : DriverAt (.wait :: ops) reads errs (P k) s) :
    ∃ u, Reaches t s u ∧ DriverAt (.wait :: ops) reads errs (P N) u ∧ nextAgent u = .sequencer := by
  cases ha : nextAgent s with
  | platform => exact absurd ha (nextAgent_ne_platform h.noReset)
  | host =>
    have hb : s.busy = true := hP.busy h.regs
    have hlen : 0 < s.sched.length := List.length_pos_of_ne_nil (sched_ne_nil_of_busy ha hb)
    obtain ⟨u, hstep, hu, hsched⟩ := h.poll ha hb fun u => hP.host h.regs
    obtain ⟨v, huv, hv⟩ := hP.leadsTo_last hk u hu
    exact ⟨v, reaches_of_step hstep huv, hv⟩
  | sequencer =>
    obtain rfl | hlt := hk.eq_or_lt
    · exact ⟨s, .refl, h, ha⟩
    · obtain ⟨u, hstep, hPu, hsched⟩ := hP.sequencer h.regs hlt
      obtain ⟨v, huv, hv⟩ := hP.leadsTo_last hlt u (h.sequencer hstep hPu)
      exact ⟨v, reaches_of_step ((stepWith_sequencer ha).trans hstep) huv, hv⟩
termination_by N - k + s.sched.length
decreasing_by
  · rw [hsched, List.length_tail]; omega
  · rw [hsched, List.length_tail]; omega

/-- A command and its `WAIT`, by the step that accepts the command and the step that completes it. -/
theorem leadsTo_command {v : Byte} {N : Nat} {P : State → Nat → State → Prop} (hK : OfIdleRegisters K)
    (hK' : OfIdleRegisters K') (hP : ∀ s, AdvancesBySequencer t N (P s))
    (hstart : ∀ s, DriverAt (.wait :: ops) reads errs K s →
      ∃ u, memWrite (execFor t) cmdOffset v s = .next u ∧ DriverAt (.wait :: ops) reads errs (P s 0) u)
    (hlast : ∀ s u, K s → P s N u → nextAgent u = .sequencer → ∃ w, stepFor t u = .next w ∧ K' w) :
    LeadsTo t (DriverAt (.wr cmdOffset v :: .wait :: ops) reads errs K) (DriverAt ops reads errs K') := by
  refine LeadsTo.trans (Q := DriverAt (.wait :: ops) reads errs K') ?_ (leadsTo_wait hK')
  refine LeadsTo.trans (Q := fun u => ∃ s, K s ∧ DriverAt (.wait :: ops) reads errs (P s 0) u) ?start ?run
  case start =>
    refine leadsTo_wr hK fun s h => ?_
    obtain ⟨u, hw, hu⟩ := hstart s h
    exact ⟨u, hw, s, h.regs, hu⟩
  case run =>
    rintro u ⟨s, hs, hu⟩
    obtain ⟨x, hux, hx, ha⟩ := (hP s).leadsTo_last (Nat.zero_le N) u hu
    obtain ⟨w, hstep, hw⟩ := hlast s x hs hx.regs ha
    exact ⟨w, Relation.ReflTransGen.tail hux hstep, hx.sequencer ((stepWith_sequencer ha).symm.trans hstep) hw⟩

end

end Sys2Proof.Machine
end

section
/-! PROOFS. The driver's program piece by piece (R99, R257, R258): what each pseudo-instruction leaves in the registers
and what it has read from `DOUT`. -/

namespace Sys2Proof.Machine

/-! ### What the registers hold between the pieces -/

/-- The KFCC is idle. -/
def Idle (s : State) : Prop := s.stage = .idle

/-- The idle KFCC holds the key in `KEY`. -/
def KeyLoaded (key : Vector Byte 8) (s : State) : Prop := s.stage = .idle ∧ s.key = key

/-- The idle KFCC holds the round keys of `key`, and they are valid. -/
structure KeyReady (t : Tables) (key : Vector Byte 8) (s : State) : Prop where
  idle : s.stage = .idle
  kv : s.kv = true
  rk : s.rk = ks t (bytesToBits key)

/-- The round keys are ready, and `DIN` holds the block. -/
def BlockLoaded (t : Tables) (key b : Vector Byte 8) (s : State) : Prop := KeyReady t key s ∧ s.din = b

/-- The round keys are ready, and `DOUT` holds the block. -/
def BlockDone (t : Tables) (key b : Vector Byte 8) (s : State) : Prop := KeyReady t key s ∧ s.dout = b

theorem ofIdleRegisters_idle : OfIdleRegisters Idle := ⟨id, fun _ _ _ h => h⟩

theorem ofIdleRegisters_keyLoaded (key : Vector Byte 8) : OfIdleRegisters (KeyLoaded key) :=
  ⟨And.left, fun _ _ _ h => h⟩

theorem ofIdleRegisters_keyReady (t : Tables) (key : Vector Byte 8) : OfIdleRegisters (KeyReady t key) :=
  ⟨KeyReady.idle, fun _ _ _ h => ⟨h.idle, h.kv, h.rk⟩⟩

theorem ofIdleRegisters_blockLoaded (t : Tables) (key b : Vector Byte 8) : OfIdleRegisters (BlockLoaded t key b) :=
  ⟨fun h => h.1.idle, fun p q lg h => ⟨(ofIdleRegisters_keyReady t key).hostSide p q lg h.1, h.2⟩⟩

theorem ofIdleRegisters_blockDone (t : Tables) (key b : Vector Byte 8) : OfIdleRegisters (BlockDone t key b) :=
  ⟨fun h => h.1.idle, fun p q lg h => ⟨(ofIdleRegisters_keyReady t key).hostSide p q lg h.1, h.2⟩⟩

section
variable {t : Tables} {ops : List HostOp} {reads : List Byte} {errs : Byte} {K : State → Prop}

/-! ### Eight writes and eight reads (R99) -/

/-- `K` holds, and of the register `reg` the bytes but for those at the places `l` are those of `data`. -/
def LoadedBut (K : State → Prop) (reg : State → Vector Byte 8) (data : Vector Byte 8) (l : List (Fin 8))
    (s : State) : Prop :=
  K s ∧ ∀ i : Fin 8, i ∈ l ∨ (reg s)[i] = data[i]

/-- A write of the byte at the first place leaves the others to be written. -/
theorem LoadedBut.write {reg : State → Vector Byte 8} {data : Vector Byte 8} {k : Fin 8} {l : List (Fin 8)}
    {s u : State} (h : LoadedBut K reg data (k :: l) s) (hK : K u) (hu : reg u = (reg s).set k data[k]) :
    LoadedBut K reg data l u := by
  refine ⟨hK, fun i => ?_⟩
  rw [hu]
  by_cases hik : i = k
  · exact .inr (by simp [hik])
  · obtain hl | hr := h.2 i
    · exact .inl ((List.mem_cons.1 hl).resolve_left hik)
    · have hne : k.val ≠ i.val := fun hv => hik (Fin.ext hv.symm)
      exact .inr (by simpa [Vector.getElem_set, hne] using hr)

/-- A driver's write at `off k` in a state of which `K` holds sets byte `k` of `reg` and keeps `K`. -/
def WritesByteOf (t : Tables) (K : State → Prop) (off : Fin 8 → Offset) (reg : State → Vector Byte 8) : Prop :=
  ∀ (k : Fin 8) (v : Byte) {ops : List HostOp} {reads : List Byte} {errs : Byte} {s : State},
    DriverAt ops reads errs K s → ∃ u, memWrite (execFor t) (off k) v s = .next u ∧
      DriverAt ops reads errs K u ∧ reg u = (reg s).set k v

section
variable {off : Fin 8 → Offset} {reg : State → Vector Byte 8} (data : Vector Byte 8)

/-- Writes of the bytes at the places `l`. -/
theorem leadsTo_writes (hK : OfIdleRegisters K) (hreg : ∀ p q lg s, reg (withHostSide p q lg s) = reg s)
    (hw : WritesByteOf t K off reg) (l : List (Fin 8)) :
    LeadsTo t (DriverAt (l.map (fun k => .wr (off k) data[k]) ++ ops) reads errs (LoadedBut K reg data l))
      (DriverAt ops reads errs (LoadedBut K reg data [])) := by
  induction l with
  | nil => exact LeadsTo.of_imp fun _ h => h
  | cons k l ih =>
    have hregs : OfIdleRegisters (LoadedBut K reg data (k :: l)) :=
      ⟨fun h => hK.idle h.1, fun p q lg h => ⟨hK.hostSide p q lg h.1, by rw [hreg]; exact h.2⟩⟩
    refine LeadsTo.trans (leadsTo_wr hregs fun s h => ?_) ih
    obtain ⟨u, hu, hnext, hset⟩ := hw k data[k] (h.mono And.left)
    exact ⟨u, hu, hnext.mono fun hKu => h.regs.write hKu hset⟩

/-- All eight writes of a register. -/
theorem leadsTo_load (hK : OfIdleRegisters K) (hreg : ∀ p q lg s, reg (withHostSide p q lg s) = reg s)
    (hw : WritesByteOf t K off reg) :
    LeadsTo t (DriverAt (List.ofFn (fun k => .wr (off k) data[k]) ++ ops) reads errs K)
      (DriverAt ops reads errs fun s => K s ∧ reg s = data) := by
  rw [List.ofFn_eq_map]
  intro s h
  have hstart : LoadedBut K reg data (List.finRange 8) s := ⟨h.regs, fun k => .inl (List.mem_finRange k)⟩
  obtain ⟨u, hu, hloaded⟩ := leadsTo_writes data hK hreg hw _ s (h.mono fun _ => hstart)
  refine ⟨u, hu, hloaded.mono fun hl => ⟨hl.1, Vector.ext fun k hk => ?_⟩⟩
  exact (hl.2 ⟨k, hk⟩).resolve_left List.not_mem_nil

end

/-- Reads of `DOUT` at the places `l`. -/
theorem leadsTo_reads {out : Vector Byte 8} (hK : OfIdleRegisters K) (hout : ∀ s, K s → s.dout = out)
    (l : List (Fin 8)) :
    LeadsTo t (DriverAt (l.map (fun k => .rd (doutOffset k)) ++ ops) reads errs K)
      (DriverAt ops (reads ++ l.map fun k => out[k]) errs K) := by
  induction l generalizing reads with
  | nil => rw [List.map_nil, List.map_nil, List.append_nil]; exact LeadsTo.of_imp fun _ h => h
  | cons k l ih =>
    have hb : ∀ s, K s → memRead (doutOffset k) s = out[k] := fun s hs => by rw [memRead_doutOffset, hout s hs]
    refine LeadsTo.trans (leadsTo_rd hK hb) ?_
    rw [doutReads_doutOffset, List.map_cons, List.append_cons reads out[k] (l.map fun k => out[k])]
    exact ih

/-! ### The pieces of the program -/

theorem leadsTo_ldKey (key : Vector Byte 8) :
    LeadsTo t (DriverAt (ldKey key ++ ops) reads errs Idle) (DriverAt ops reads errs (KeyLoaded key)) := by
  refine leadsTo_load (reg := State.key) key ofIdleRegisters_idle (fun _ _ _ _ => rfl) fun k v _ _ _ s h => ?_
  refine ⟨writeKeyByte k v s, ?_, ⟨h.prog, h.noReset, h.reads, h.errors, h.regs⟩, rfl⟩
  rw [memWrite_keyOffset, whenIdle_of_idle ((busy_eq_false_iff s).2 h.regs)]

theorem leadsTo_ldBlk (key b : Vector Byte 8) :
    LeadsTo t (DriverAt (ldBlk b ++ ops) reads errs (KeyReady t key))
      (DriverAt ops reads errs (BlockLoaded t key b)) := by
  refine leadsTo_load (reg := State.din) b (ofIdleRegisters_keyReady t key) (fun _ _ _ _ => rfl)
    fun k v _ _ _ s h => ?_
  obtain ⟨hidle, hkv, hrk⟩ := h.regs
  refine ⟨writeDinByte k v s, ?_, ⟨h.prog, h.noReset, h.reads, h.errors, hidle, hkv, hrk⟩, rfl⟩
  rw [memWrite_dinOffset, whenIdle_of_idle ((busy_eq_false_iff s).2 hidle)]

theorem leadsTo_rdBlk (key out : Vector Byte 8) :
    LeadsTo t (DriverAt (rdBlk ++ ops) reads errs (BlockDone t key out))
      (DriverAt ops (reads ++ out.toList) errs (BlockDone t key out)) := by
  have hlist : out.toList = (List.finRange 8).map fun k => out[k] := by
    rw [← List.ofFn_eq_map, ← Vector.toList_ofFn]
    exact congrArg Vector.toList Vector.ofFn_getElem.symm
  rw [rdBlk, List.ofFn_eq_map, hlist]
  exact leadsTo_reads (ofIdleRegisters_blockDone t key out) (fun _ h => h.2) _

/-- The last step of a `KEYGEN`, whatever the tables (R173). -/
theorem KeygenRuns.completes_keyReady {key : Vector Byte 8} {s u : State} (hs : s.key = key)
    (h : KeygenRuns t s 16 u) (ha : nextAgent u = .sequencer) :
    ∃ w, stepFor t u = .next w ∧ KeyReady t key w := by
  obtain ⟨-, -, hstage, hrnd, hprog⟩ := h
  have hlast : u.rnd = 15 := Fin.ext hrnd
  refine ⟨stageKsRnd t (popTurn u), (stepWith_sequencer ha).trans (by rw [hstage]; rfl), ?_⟩
  rw [stageKsRnd_of_last (s := popTurn u) hlast]
  refine ⟨rfl, rfl, eq_ks_of_forall fun j => ?_⟩
  rw [← hs]
  exact hprog.rk_set_eq j (by omega)

theorem leadsTo_keygen (key : Vector Byte 8) :
    LeadsTo t (DriverAt (issue .keygen ++ .wait :: ops) reads errs (KeyLoaded key))
      (DriverAt ops reads errs (KeyReady t key)) := by
  refine leadsTo_command (P := KeygenRuns t) (ofIdleRegisters_keyLoaded key) (ofIdleRegisters_keyReady t key)
    (advancesBySequencer_keygen t) (fun s h => ?start) fun s u hs => KeygenRuns.completes_keyReady hs.2
  refine ⟨{ s with kv := false, stage := .ksPc1 }, ?_, h.prog, h.noReset, h.reads, h.errors, rfl, rfl, rfl⟩
  have hd : decodeCmd (cmdByte .keygen) = .ok .keygen := by decide
  rw [memWrite_cmd_of_whenIdle s hd rfl]
  exact congrArg _ (whenIdle_of_idle ((busy_eq_false_iff s).2 h.regs.1))

/-- The last step of an `ENC` or `DEC` publishes the cipher's block (R205). -/
theorem BlockRuns.completes_blockDone {dir : Bool} {key b : Vector Byte 8} {s u : State} (hs : BlockLoaded t key b s)
    (h : BlockRuns t (blockAccepted dir s) 17 u) (ha : nextAgent u = .sequencer) :
    ∃ w, stepFor t u = .next w ∧ BlockDone t key (cipherBlock t dir key b) w := by
  obtain ⟨⟨-, hkv, hrk⟩, hdin⟩ := hs
  obtain ⟨w, hstep, hidle, -, -, -, -, hdout, -, -, hrk', hkv', -, -⟩ := h.completes ha
  refine ⟨w, hstep, ⟨hidle, hkv'.trans hkv, hrk'.trans hrk⟩, ?_⟩
  rw [hdout, cipherBlock, ← hdin, ← hrk]; rfl

theorem leadsTo_block (dir : Bool) (key b : Vector Byte 8) :
    LeadsTo t (DriverAt (issue (if dir then .dec else .enc) ++ .wait :: ops) reads errs (BlockLoaded t key b))
      (DriverAt ops reads errs (BlockDone t key (cipherBlock t dir key b))) := by
  refine leadsTo_command (P := fun s => BlockRuns t (blockAccepted dir s)) (ofIdleRegisters_blockLoaded t key b)
    (ofIdleRegisters_blockDone t key _) (fun s => advancesBySequencer_block t _) (fun s h => ?start)
    fun s u hs => BlockRuns.completes_blockDone hs
  obtain ⟨hidle, hkv, -⟩ := h.regs.1
  refine ⟨blockAccepted dir s, ?_, h.prog, h.noReset, h.reads, h.errors, rfl, .ip rfl⟩
  have hbyte : cmdByte (if dir then .dec else .enc) = if dir then 0x03#8 else 0x02#8 := by revert dir; decide
  rw [hbyte]
  refine (memWrite_cmd_block t dir s).trans ?_
  rw [whenIdle_of_idle ((busy_eq_false_iff s).2 hidle), startBlock_of_kv hkv]; rfl

/-- One block of the loop of R257 and R258. -/
theorem leadsTo_blockOps (dir : Bool) (key b : Vector Byte 8) :
    LeadsTo t (DriverAt (blockOps (if dir then .dec else .enc) b ++ ops) reads errs (KeyReady t key))
      (DriverAt ops (reads ++ (cipherBlock t dir key b).toList) errs (KeyReady t key)) := by
  rw [blockOps]
  simp only [List.append_assoc, List.singleton_append]
  exact (leadsTo_ldBlk key b).trans <| (leadsTo_block dir key b).trans <| (leadsTo_rdBlk key _).trans <|
    LeadsTo.of_imp fun _ h => h.mono And.left

theorem leadsTo_blocks (dir : Bool) (key : Vector Byte 8) (blocks : List (Vector Byte 8)) :
    LeadsTo t (DriverAt (blocks.flatMap (blockOps (if dir then .dec else .enc)) ++ ops) reads errs (KeyReady t key))
      (DriverAt ops (reads ++ joinBlocks (blocks.map (cipherBlock t dir key))) errs (KeyReady t key)) := by
  induction blocks generalizing reads with
  | nil =>
    rw [List.map_nil, show joinBlocks [] = [] from rfl, List.append_nil]
    exact LeadsTo.of_imp fun _ h => h
  | cons b blocks ih =>
    rw [List.flatMap_cons, List.append_assoc, List.map_cons, joinBlocks_cons, ← List.append_assoc reads]
    exact (leadsTo_blockOps dir key b).trans ih

theorem leadsTo_clr (hK : OfIdleRegisters K) (clear : Bool) :
    LeadsTo t (DriverAt (if clear then issue .clr else []) reads errs K) (DriverAt [] reads errs Idle) := by
  cases clear with
  | false => exact LeadsTo.of_imp fun _ h => h.mono hK.idle
  | true =>
    refine leadsTo_wr hK fun s h => ?_
    have hd : decodeCmd (cmdByte .clr) = .ok .clr := by decide
    refine ⟨zeroise s, ?_, h.prog, h.noReset, h.reads, h.errors, hK.idle (s := s) h.regs⟩
    rw [memWrite_cmd_of_whenIdle s hd rfl]
    exact congrArg _ (whenIdle_of_idle ((busy_eq_false_iff s).2 (hK.idle h.regs)))

end

/-- Settles O53: the pieces of the program one after another. -/
theorem driverReadsTheCipherBlocks : Obligations.DriverReadsTheCipherBlocks := by
  intro t s dir key blocks clear hs hreset hp
  have hrun : LeadsTo t (DriverAt (messageOps (if dir then .dec else .enc) key blocks clear) (doutReads s.readLog)
        (s.evt &&& errorBits) Idle)
      (DriverAt [] (doutReads s.readLog ++ joinBlocks (blocks.map (cipherBlock t dir key))) (s.evt &&& errorBits)
        Idle) := by
    rw [messageOps]
    simp only [List.append_assoc, List.singleton_append]
    exact (leadsTo_ldKey key).trans <| (leadsTo_keygen key).trans <| (leadsTo_blocks dir key blocks).trans <|
      leadsTo_clr (ofIdleRegisters_keyReady t key) clear
  obtain ⟨u, hu, hprog, -, hreads, herrs, hidle⟩ := hrun s ⟨hp, hreset, rfl, rfl, hs⟩
  obtain ⟨n, hn⟩ := exists_run_of_reaches hu
  exact ⟨n, u, hn, hprog, hidle, hreads, herrs⟩

end Sys2Proof.Machine
end

section
/-! PROOFS. Exceptions (60_exceptions.md): what raising an error does, which writes raise which error, and that no step
faults (R281 to R284, R287, R290, R300). -/

namespace Sys2Proof.Machine

/-! ### Raising (R281, R285) -/

section
variable (e : Event) (s : State)

/-- An event is a bit of a byte. -/
theorem eventCode_lt : eventCode e < 8 := by
  cases e <;> decide

theorem getLsbD_eventMask (k : Nat) : (eventMask e).getLsbD k = decide (k = eventCode e) := by
  have hmask : eventMask e = BitVec.twoPow 8 (eventCode e) := rfl
  rw [hmask, BitVec.getLsbD_twoPow, decide_eq_true (eventCode_lt e), Bool.true_and]
  exact decide_eq_decide.2 eq_comm

theorem getLsbD_evt_raise (k : Nat) :
    (raise e s).evt.getLsbD k = (s.evt.getLsbD k || decide (k = eventCode e)) := by
  rw [raise_evt, BitVec.getLsbD_or, getLsbD_eventMask]

theorem raise_raise : raise e (raise e s) = raise e s := by
  simp [raise, setEvent, BitVec.or_assoc]

/-- A raised event asks for an interrupt when its bit of `IEN` is 1 (R35). -/
theorem irq_raise (h : s.ien.getLsbD (eventCode e) = true) : (raise e s).irq = true :=
  (irq_iff _).2 ⟨⟨eventCode e, eventCode_lt e⟩, getLsbD_or_eventMask s.evt e, h⟩

end

theorem eventCode_injective : Function.Injective eventCode := by
  intro e e'
  cases e <;> cases e' <;> simp [eventCode]

/-- Settles O26: the bits by `getLsbD_evt_raise`, of which `ERRS` and `irq` are functions (R31, R35). -/
theorem raisingSetsOneBitAndNothingElse : Obligations.RaisingSetsOneBitAndNothingElse := by
  intro s e code he
  have hcode : code = eventCode e := by obtain ⟨rfl, rfl⟩ | ⟨rfl, rfl⟩ | ⟨rfl, rfl⟩ := he <;> rfl
  have herrs : (raise e s).errs = true := by
    simp only [errs_eq, getLsbD_evt_raise]
    obtain ⟨rfl, -⟩ | ⟨rfl, -⟩ | ⟨rfl, -⟩ := he <;> simp [eventCode]
  subst hcode
  exact ⟨rfl, fun k => getLsbD_evt_raise e s k.val, raise_raise e s, herrs, irq_raise e s⟩

/-! ### Which write raises which error (R282 to R284, R290) -/

/-- The circumstances in which the write of `v` at `a` raises an error. No two of them go together, so the order of
the checks in R290 leaves one error at most; the completion events are raised by no write. -/
def writeRaises (s : State) (a : Offset) (v : Byte) : Event → Prop
  | .eBusy => s.stage ≠ .idle ∧ (a.toNat < 0x10 ∨ a.toNat = 0x18)
  | .eIllcmd => s.stage = .idle ∧ a.toNat = 0x18 ∧ 0x05 ≤ v.toNat
  | .eNokey => s.stage = .idle ∧ a.toNat = 0x18 ∧ (v = 0x02#8 ∨ v = 0x03#8) ∧ s.kv = false
  | .kdone | .bdone => False

section
variable {s t : State} {a : Offset} {v : Byte}

theorem startBlock_refused_or_evt (dir : Bool) (s : State) :
    (s.kv = false ∧ startBlock dir s = raise .eNokey s) ∨ (startBlock dir s).evt = s.evt := by
  cases hkv : s.kv with
  | true => rw [startBlock_of_kv hkv]; exact .inr rfl
  | false => exact .inl ⟨rfl, startBlock_of_not_kv hkv⟩

/-- A command that an idle KFCC executes is a block command refused for want of a key, or leaves `EVT` as it is. -/
theorem command_refused_or_evt {i : Instr} (hb : s.busy = false) (hv : decodeCmd v = .ok i)
    (ht : exec i s = .next t) :
    ((v = 0x02#8 ∨ v = 0x03#8) ∧ s.kv = false ∧ t = raise .eNokey s) ∨ t.evt = s.evt := by
  obtain ⟨rfl, hd⟩ | ⟨rfl, hd⟩ | ⟨rfl, hd⟩ | ⟨rfl, hd⟩ | ⟨rfl, hd⟩ | ⟨-, hd⟩ := decodeCmd_cases v <;>
    rw [hd] at hv <;> cases hv <;> injection ht with ht <;> rw [whenIdle_of_idle hb] at ht <;> subst ht
  · exact .inr rfl
  · exact .inr rfl
  · exact (startBlock_refused_or_evt false s).imp_left fun h => ⟨.inl rfl, h⟩
  · exact (startBlock_refused_or_evt true s).imp_left fun h => ⟨.inr rfl, h⟩
  · exact .inr rfl

/-- A write raises one error and does nothing else, or it sets no bit of `EVT` (R290). -/
theorem memWrite_raises_or_sets_no_bit (h : memWrite exec a v s = .next t) :
    (∃ e, writeRaises s a v e ∧ t = raise e s) ∨
      ∀ k : Nat, t.evt.getLsbD k = true → s.evt.getLsbD k = true := by
  have hidle : s.busy = false → s.stage = .idle := (busy_eq_false_iff s).1
  obtain ⟨hb, ha, rfl⟩ | ⟨-, -, rfl⟩ | ⟨-, -, -, rfl⟩ | ⟨hb, rfl, i, hv, hi⟩ | ⟨hb, rfl, hv, rfl⟩ |
    ⟨-, rfl⟩ | ⟨-, rfl⟩ | ⟨-, -, -, -, rfl⟩ := memWrite_cases h
  · have hs : s.stage ≠ .idle := fun hs => by rw [(busy_eq_false_iff s).2 hs] at hb; cases hb
    exact .inl ⟨.eBusy, ⟨hs, ha.imp_right (congrArg BitVec.toNat)⟩, rfl⟩
  · exact .inr fun _ => id
  · exact .inr fun _ => id
  · obtain ⟨hv', hkv, ht⟩ | ht := command_refused_or_evt hb hv hi
    · exact .inl ⟨.eNokey, ⟨hidle hb, rfl, hv', hkv⟩, ht⟩
    · exact .inr fun _ hk => ht ▸ hk
  · exact .inl ⟨.eIllcmd, ⟨hidle hb, rfl, hv⟩, rfl⟩
  · refine .inr fun k hk => ?_
    rw [acknowledge_evt, BitVec.getLsbD_and, Bool.and_eq_true] at hk
    exact hk.1
  · exact .inr fun _ => id
  · exact .inr fun _ => id

/-- A bit of `EVT` that goes from 0 to 1 in a write is the bit of the error raised. -/
theorem exists_raised_of_bit_set (h : memWrite exec a v s = .next t) {k : Nat}
    (hs : s.evt.getLsbD k = false) (ht : t.evt.getLsbD k = true) :
    ∃ e, writeRaises s a v e ∧ t = raise e s ∧ k = eventCode e := by
  obtain ⟨e, he, rfl⟩ | hno := memWrite_raises_or_sets_no_bit h
  · rw [getLsbD_evt_raise, hs, Bool.false_or] at ht
    exact ⟨e, he, rfl, of_decide_eq_true ht⟩
  · rw [hno k ht] at hs; cases hs

/-- The bit of `e` goes from 0 to 1 only in the circumstances that raise `e`. -/
theorem writeRaises_of_bit_set (h : memWrite exec a v s = .next t) (e : Event)
    (ht : t.evt.getLsbD (eventCode e) = true) (hs : s.evt.getLsbD (eventCode e) = false) :
    writeRaises s a v e := by
  obtain ⟨e', he, -, hk⟩ := exists_raised_of_bit_set h hs ht
  rwa [eventCode_injective hk]

/-- No two bits of `EVT` go from 0 to 1 in one write. -/
theorem bit_set_unique (h : memWrite exec a v s = .next t) {k k' : Nat}
    (hs : s.evt.getLsbD k = false) (ht : t.evt.getLsbD k = true)
    (hs' : s.evt.getLsbD k' = false) (ht' : t.evt.getLsbD k' = true) : k = k' := by
  obtain ⟨e, -, rfl, rfl⟩ := exists_raised_of_bit_set h hs ht
  rw [getLsbD_evt_raise, hs', Bool.false_or] at ht'
  exact (of_decide_eq_true ht').symm

/-- A write of `KEY`, `DIN` or `CMD` of a busy KFCC is refused (R282). -/
theorem memWrite_refused_of_busy (hs : s.stage ≠ .idle) (ha : a.toNat < 0x10 ∨ a.toNat = 0x18) :
    memWrite exec a v s = .next (raise .eBusy s) := by
  obtain ⟨hkey, hdin, -, hcmd, -⟩ := writesActByOffset s a v
  obtain hk | hd | hc : a.toNat < 0x08 ∨ (0x08 ≤ a.toNat ∧ a.toNat < 0x10) ∨ a.toNat = 0x18 := by omega
  · exact (hkey ⟨a.toNat, hk⟩ rfl).trans (if_neg hs)
  · exact (hdin ⟨a.toNat - 0x08, by omega⟩ (by simp only; omega)).trans (if_neg hs)
  · exact (hcmd hc).trans (if_neg hs)

theorem decodeCmd_of_ge (hv : 0x05 ≤ v.toNat) : decodeCmd v = .error .reservedCommand := by
  obtain ⟨rfl, -⟩ | ⟨rfl, -⟩ | ⟨rfl, -⟩ | ⟨rfl, -⟩ | ⟨rfl, -⟩ | ⟨-, hd⟩ := decodeCmd_cases v
  case inr.inr.inr.inr.inr => exact hd
  all_goals exact absurd hv (by decide)

end

/-- Settles O29: a bit set is the bit of the one error raised, in that error's circumstances. -/
theorem oneWriteRaisesAtMostOneError : Obligations.OneWriteRaisesAtMostOneError := by
  intro s t a v h
  exact ⟨fun _ _ _ _ hs ht hs' ht' => Fin.ext (bit_set_unique h hs ht hs' ht'),
    writeRaises_of_bit_set h .eBusy, writeRaises_of_bit_set h .eIllcmd, writeRaises_of_bit_set h .eNokey⟩

/-- Settles O27. A write that sets `EVT[6]` raises `E_BUSY`, in a busy state at `KEY`, `DIN` or `CMD`. -/
theorem busyWritesAreRefused : Obligations.BusyWritesAreRefused := by
  intro s a v
  refine ⟨memWrite_refused_of_busy, fun hno => ?elsewhere, fun rest ha hp => ⟨_, step_of_prog_rd ha hp, rfl⟩⟩
  obtain ⟨t, h⟩ := memWrite_next exec_next a v s
  refine ⟨t, h, fun ht => Bool.eq_true_of_not_eq_false fun hs => ?_⟩
  obtain ⟨hbusy, ha⟩ := writeRaises_of_bit_set h .eBusy ht hs
  obtain hidle | ⟨h10, h18⟩ := hno
  · exact hbusy hidle
  · omega

/-- Settles O28: a reserved byte does not decode. -/
theorem reservedCommandsAreRefused : Obligations.ReservedCommandsAreRefused := fun s v hs hv =>
  (memWrite_cmdOffset v s).trans (writeCmd_of_reserved ((busy_eq_false_iff s).2 hs) (decodeCmd_of_ge hv))

/-! ### No step faults (R287, R300) -/

section
variable {run : Instr → State → Host.Outcome State Fault Refusal} (hrun : ∀ i s, ∃ t, run i s = .next t)
include hrun

/-- The host's turn answers a next state when every command it may execute does. -/
theorem hostTurn_next (s : State) : ∃ t, hostTurn run s = .next t := by
  cases hp : s.prog with
  | nil => exact ⟨_, hostTurn_nil hp⟩
  | cons op rest =>
    cases op with
    | rd a => exact ⟨_, hostTurn_rd hp⟩
    | wr a v => rw [hostTurn_wr hp]; exact memWrite_next hrun a v _
    | wait => exact ⟨_, hostTurn_wait hp⟩

/-- A step answers a next state when every instruction does. -/
theorem stepWith_next (s : State) : ∃ t, stepWith run s = .next t := by
  cases ha : nextAgent s with
  | host => rw [stepWith_host ha]; exact hostTurn_next hrun _
  | sequencer => rw [stepWith_sequencer ha]; exact hrun _ _
  | platform => exact ⟨_, stepWith_platform ha⟩

end

/-- A machine whose every step answers a next state runs for any number of steps. -/
theorem run_next {M : Host.Core} (hstep : ∀ s, ∃ t, M.step s = .next t) (n : Nat) (s : M.State) :
    ∃ t, M.run n s = .next t := by
  induction n generalizing s with
  | zero => exact ⟨s, rfl⟩
  | succ n ih =>
    obtain ⟨u, hu⟩ := hstep s
    rw [run_succ_of_step hu]
    exact ih u

/-- Settles O34, by induction on the number of steps: no step stops (`stepWith_next`). -/
theorem everyRunGoesOn : Obligations.EveryRunGoesOn := run_next (M := core) (stepWith_next exec_next)

end Sys2Proof.Machine
end

section
/-! PROOFS. The reset event (R320, R321): the platform's turn never looks at what is in progress. -/

namespace Sys2Proof.Machine

/-- What the platform's turn leaves of a state is the host's side only. -/
theorem resetCore_popTurn (s : State) :
    resetCore (popTurn s) =
      { State.reset with prog := s.prog, sched := s.sched.tail, readLog := s.readLog } :=
  rfl

/-- Settles O31: the platform's turn is the reset event, which builds its answer from `State.reset`. -/
theorem resetEventAbandonsEverything : Obligations.ResetEventAbandonsEverything := by
  intro s h
  rw [step_platform h, resetCore_popTurn]

end Sys2Proof.Machine
end
